-- ==== Sys2Proof/Word.lean ====
section
/-! DEFINITION. The word types of WSCF-1 (00_scope.md R5, R6): bit vectors for what the spec reads as bits. -/

namespace Sys2Proof

/-- A 32-bit register's bit pattern: `XLEN` is 32 (R5, R6). -/
abbrev Word := BitVec 32

/-- A byte of the burst buffer (10_state.md R14). -/
abbrev Byte := BitVec 8

/-- A byte address of the host window: 9 address bits, 0x000 to 0x1FF (20_memory.md R28). -/
abbrev WindowAddr := BitVec 9

end Sys2Proof
end

