-- ==== Sys2Proof/Config.lean ====
section
/-! DEFINITION. The implementation parameters of 00_scope.md R5 that a machine's behaviour depends on. The widths and
counts of R5 (XLEN, NX, NRAW, NCAL, WINDOW) are in the types of Word.lean and Machine/State.lean. -/

namespace Sys2Proof.Config

/-- `ID_VALUE`: ASCII "WSCF" (R5, 10_state.md R20). -/
def idValue : Word := 0x57534346#32

/-- `H45_SIGNED`: whether H4 and H5 are read as signed 12-bit values. WSCF-1's value is `false`; `true` is a permitted
variant (R5, 10_state.md R16). DESIGN CHOICE (log entry 2): the model fixes the value R5 gives, and every definition
that depends on it (`Trim.value`) takes it as an argument. unsafe for a block of the variant. -/
def h45Signed : Bool := false

end Sys2Proof.Config
end

