-- ==== Sys2Proof/Syntax.lean ====
section
/-! DEFINITION. The 26 commands of WSCF-1 as abstract syntax (30_encoding.md R46), one constructor per row of
spec/opcode_table.json, in the table's order. -/

namespace Sys2Proof

/-- A register field names `X0` to `X15` by its unsigned value; all 16 are legal (30_encoding.md R43). -/
abbrev Reg := BitVec 4

/-- A command with its operand fields, as 30_encoding.md R42 lays them out. The selector of GETR and the index of WCAL
are held as the fields they are; `WellFormed` says which values R45 makes legal. -/
inductive Instr where
  /-- NOP (R54). -/
  | nop
  /-- LDI rd, imm16 (R55). -/
  | ldi (rd : Reg) (imm : BitVec 16)
  /-- LDIH rd, imm16 (R56). -/
  | ldih (rd : Reg) (imm : BitVec 16)
  /-- GETR rd, sel (R57). -/
  | getr (rd : Reg) (sel : BitVec 4)
  /-- SETRAW k, rs (R58). -/
  | setraw (k : BitVec 3) (rs : Reg)
  /-- WCAL k, rs (R59). -/
  | wcal (k : BitVec 5) (rs : Reg)
  /-- CALSEAL (R60). -/
  | calseal
  /-- CALOPEN (R61). -/
  | calopen
  /-- UNPK20 rd, rs (R63). -/
  | unpk20 (rd rs : Reg)
  /-- UNPK16 rd, rs (R64). -/
  | unpk16 (rd rs : Reg)
  /-- UNPKH45 rs (R65). -/
  | unpkh45 (rs : Reg)
  /-- FLD14 rd, rs (R66). -/
  | fld14 (rd rs : Reg)
  /-- LEXP rd, rs (R67). -/
  | lexp (rd rs : Reg)
  /-- LMANT rd, rs (R68). -/
  | lmant (rd rs : Reg)
  /-- TPDEC rd, rs (R70). -/
  | tpdec (rd rs : Reg)
  /-- T32T10 rd, rs (R69). -/
  | t32t10 (rd rs : Reg)
  /-- C10F10 rd, rs (R72). -/
  | c10f10 (rd rs : Reg)
  /-- LUXDEC rd, rs (R73). -/
  | luxdec (rd rs : Reg)
  /-- C100F10 rd, rs (R74). -/
  | c100f10 (rd rs : Reg)
  /-- PAINHG rd, rs (R75). -/
  | painhg (rd rs : Reg)
  /-- TPSAMPLE rs1, rs2 (R76). -/
  | tpsample (rs1 rs2 : Reg)
  /-- LUXSAMPLE rs (R77). -/
  | luxsample (rs : Reg)
  /-- COMPT rd, rs (R85). -/
  | compt (rd rs : Reg)
  /-- COMPH rd, rs (R86). -/
  | comph (rd rs : Reg)
  /-- COMPP rd, rs (R87). -/
  | compp (rd rs : Reg)
  /-- ENVSAMPLE (R88). -/
  | envsample
  deriving DecidableEq, Repr

end Sys2Proof
end

