-- ==== Sys2Proof/WellFormed.lean ====
section
/-! DEFINITION. Which commands have legal index fields (30_encoding.md R45). -/

namespace Sys2Proof

/-- The index checks of R45 and R47: a GETR selector is at most 7 and a WCAL index at most 17. Every other field value
is legal (R43, R44). -/
def Instr.wellFormed : Instr → Bool
  | .getr _ sel => sel.toNat ≤ 7
  | .wcal k _ => k.toNat ≤ 17
  | .nop | .ldi _ _ | .ldih _ _ | .setraw _ _ | .calseal | .calopen
  | .unpk20 _ _ | .unpk16 _ _ | .unpkh45 _ | .fld14 _ _ | .lexp _ _ | .lmant _ _
  | .tpdec _ _ | .t32t10 _ _ | .c10f10 _ _ | .luxdec _ _ | .c100f10 _ _ | .painhg _ _
  | .tpsample _ _ | .luxsample _ | .compt _ _ | .comph _ _ | .compp _ _ | .envsample => true

end Sys2Proof
end

