-- ==== Sys2Proof/Decode.lean ====
section
/-! DEFINITION. Decoding and encoding of command words (30_encoding.md R41 to R48): the fields, the formats and their
fixed-bit masks, the opcode map, a total decoder that rejects by name, and the encoder. -/

namespace Sys2Proof

/-- The 26 operation codes of R46, by mnemonic. -/
inductive Op where
  | nop | ldi | ldih | getr | setraw | wcal | calseal | calopen
  | unpk20 | unpk16 | unpkh45 | fld14 | lexp | lmant
  | tpdec | t32t10 | c10f10 | luxdec | c100f10 | painhg | tpsample | luxsample
  | compt | comph | compp | envsample
  deriving DecidableEq, Repr

/-- The eight formats of R42. -/
inductive Format where
  | n | i | r | g | s | k | u | p
  deriving DecidableEq, Repr

/-- Why a word is no command, by the order of R47's checks. Each raises ILLEGAL_CMD. -/
inductive DecodeError where
  /-- OP is not in the map of R46. -/
  | unassignedOp
  /-- A reserved bit of the row's format is 1. -/
  | reservedBit
  /-- GETR with `sel > 7`. -/
  | illegalSelector
  /-- WCAL with `k > 17`. -/
  | illegalCoefficient
  deriving DecidableEq, Repr

/-- The OP value of each row of R46. -/
def Op.code : Op → BitVec 8
  | .nop => 0x00#8
  | .ldi => 0x01#8
  | .ldih => 0x02#8
  | .getr => 0x03#8
  | .setraw => 0x04#8
  | .wcal => 0x05#8
  | .calseal => 0x06#8
  | .calopen => 0x07#8
  | .unpk20 => 0x10#8
  | .unpk16 => 0x11#8
  | .unpkh45 => 0x12#8
  | .fld14 => 0x13#8
  | .lexp => 0x14#8
  | .lmant => 0x15#8
  | .tpdec => 0x20#8
  | .t32t10 => 0x21#8
  | .c10f10 => 0x22#8
  | .luxdec => 0x23#8
  | .c100f10 => 0x24#8
  | .painhg => 0x25#8
  | .tpsample => 0x26#8
  | .luxsample => 0x27#8
  | .compt => 0x30#8
  | .comph => 0x31#8
  | .compp => 0x32#8
  | .envsample => 0x33#8

/-- The rows of R46 in the table's order. -/
def Op.all : List Op :=
  [.nop, .ldi, .ldih, .getr, .setraw, .wcal, .calseal, .calopen,
   .unpk20, .unpk16, .unpkh45, .fld14, .lexp, .lmant,
   .tpdec, .t32t10, .c10f10, .luxdec, .c100f10, .painhg, .tpsample, .luxsample,
   .compt, .comph, .compp, .envsample]

/-- The format of each row of R46. -/
def Op.format : Op → Format
  | .nop | .calseal | .calopen | .envsample => .n
  | .ldi | .ldih => .i
  | .getr => .g
  | .setraw => .s
  | .wcal => .k
  | .unpkh45 | .luxsample => .u
  | .tpsample => .p
  | .unpk20 | .unpk16 | .fld14 | .lexp | .lmant
  | .tpdec | .t32t10 | .c10f10 | .luxdec | .c100f10 | .painhg
  | .compt | .comph | .compp => .r

/-- The fixed-bit mask of each format (R42): 1 at the opcode bits and at every reserved bit. -/
def Format.mask : Format → Word
  | .n => 0xFFFFFFFF#32
  | .i => 0xFF0F0000#32
  | .r => 0xFF00FFFF#32
  | .g => 0xFF0FFFF0#32
  | .s => 0xFFF0FFF8#32
  | .k => 0xFFF0FFE0#32
  | .u => 0xFFF0FFFF#32
  | .p => 0xFFF00FFF#32

/-- The row whose OP value is `c`, if R46 has one. -/
def Op.ofCode? (c : BitVec 8) : Option Op := Op.all.find? fun o => o.code == c

/-- `OP = w[31:24]` (R41). -/
def opField (w : Word) : BitVec 8 := w.extractLsb' 24 8
/-- `A = w[23:20]` (R41). -/
def aField (w : Word) : BitVec 4 := w.extractLsb' 20 4
/-- `B = w[19:16]` (R41). -/
def bField (w : Word) : BitVec 4 := w.extractLsb' 16 4
/-- `C = w[15:0]` (R41). -/
def cField (w : Word) : BitVec 16 := w.extractLsb' 0 16

/-- `match` of R46: the OP value in bits 31:24, zeros below. -/
def Op.matchWord (o : Op) : Word := o.code ++ 0#24

/-- A row's command from its fields, laid out as R42's formats say, with the index checks of R45. -/
def Op.build (o : Op) (a b : BitVec 4) (c : BitVec 16) : Except DecodeError Instr :=
  match o with
  | .nop => .ok .nop
  | .ldi => .ok (.ldi a c)
  | .ldih => .ok (.ldih a c)
  | .getr => if (c.extractLsb' 0 4).toNat ≤ 7 then .ok (.getr a (c.extractLsb' 0 4)) else .error .illegalSelector
  | .setraw => .ok (.setraw (c.extractLsb' 0 3) b)
  | .wcal => if (c.extractLsb' 0 5).toNat ≤ 17 then .ok (.wcal (c.extractLsb' 0 5) b) else .error .illegalCoefficient
  | .calseal => .ok .calseal
  | .calopen => .ok .calopen
  | .unpk20 => .ok (.unpk20 a b)
  | .unpk16 => .ok (.unpk16 a b)
  | .unpkh45 => .ok (.unpkh45 b)
  | .fld14 => .ok (.fld14 a b)
  | .lexp => .ok (.lexp a b)
  | .lmant => .ok (.lmant a b)
  | .tpdec => .ok (.tpdec a b)
  | .t32t10 => .ok (.t32t10 a b)
  | .c10f10 => .ok (.c10f10 a b)
  | .luxdec => .ok (.luxdec a b)
  | .c100f10 => .ok (.c100f10 a b)
  | .painhg => .ok (.painhg a b)
  | .tpsample => .ok (.tpsample b (c.extractLsb' 12 4))
  | .luxsample => .ok (.luxsample b)
  | .compt => .ok (.compt a b)
  | .comph => .ok (.comph a b)
  | .compp => .ok (.compp a b)
  | .envsample => .ok .envsample

/-- The total decoder of R47, its checks in R47's order: the OP, the reserved bits by the row's mask, the index. -/
def decode (w : Word) : Except DecodeError Instr :=
  match Op.ofCode? (opField w) with
  | none => .error .unassignedOp
  | some o =>
    if w &&& o.format.mask = o.matchWord then o.build (aField w) (bField w) (cField w)
    else .error .reservedBit

/-- A command word from its four fields (R41). -/
def packWord (o : Op) (a b : BitVec 4) (c : BitVec 16) : Word := o.code ++ a ++ b ++ c

/-- The command word of an instruction: R46's OP and R42's format, with every reserved bit 0 (R48). -/
def encode : Instr → Word
  | .nop => packWord .nop 0 0 0
  | .ldi rd imm => packWord .ldi rd 0 imm
  | .ldih rd imm => packWord .ldih rd 0 imm
  | .getr rd sel => packWord .getr rd 0 (0#12 ++ sel)
  | .setraw k rs => packWord .setraw 0 rs (0#13 ++ k)
  | .wcal k rs => packWord .wcal 0 rs (0#11 ++ k)
  | .calseal => packWord .calseal 0 0 0
  | .calopen => packWord .calopen 0 0 0
  | .unpk20 rd rs => packWord .unpk20 rd rs 0
  | .unpk16 rd rs => packWord .unpk16 rd rs 0
  | .unpkh45 rs => packWord .unpkh45 0 rs 0
  | .fld14 rd rs => packWord .fld14 rd rs 0
  | .lexp rd rs => packWord .lexp rd rs 0
  | .lmant rd rs => packWord .lmant rd rs 0
  | .tpdec rd rs => packWord .tpdec rd rs 0
  | .t32t10 rd rs => packWord .t32t10 rd rs 0
  | .c10f10 rd rs => packWord .c10f10 rd rs 0
  | .luxdec rd rs => packWord .luxdec rd rs 0
  | .c100f10 rd rs => packWord .c100f10 rd rs 0
  | .painhg rd rs => packWord .painhg rd rs 0
  | .tpsample rs1 rs2 => packWord .tpsample 0 rs1 (rs2 ++ 0#12)
  | .luxsample rs => packWord .luxsample 0 rs 0
  | .compt rd rs => packWord .compt rd rs 0
  | .comph rd rs => packWord .comph rd rs 0
  | .compp rd rs => packWord .compp rd rs 0
  | .envsample => packWord .envsample 0 0 0

/-- The command word held in a table row's bits: bits at and above `nbits` are 0, and a command is one 32-bit word
(R41), so a wider value holds none. -/
def tableWord? (nbits w : Nat) : Option Word :=
  if w % 2 ^ nbits < 2 ^ 32 then some (BitVec.ofNat 32 (w % 2 ^ nbits)) else none

/-- What `decode` reads from a row's bits, numbered as spec/opcode_table.json numbers them. A command is one word, so
no word order arises, and bit i of the CMD write is bit i of the word (20_memory.md R34). -/
def decodeTableWord (nbits w : Nat) : Option Instr :=
  match tableWord? nbits w with
  | none => none
  | some v =>
    match decode v with
    | .ok i => some i
    | .error _ => none

end Sys2Proof
end

