-- ==== Sys2Proof/Machine/State.lean ====
section
/-! DEFINITION. The state of WSCF-1 as plain data (10_state.md), the reasons a step can stop, and the machine right
after reset (70_reset_and_hazards.md R104). -/

namespace Sys2Proof.Machine

/-- The 18 trim coefficients by name, in the order of their numbers `k` (10_state.md R15). -/
inductive Coef where
  | t1 | t2 | t3
  | p1 | p2 | p3 | p4 | p5 | p6 | p7 | p8 | p9
  | h1 | h2 | h3 | h4 | h5 | h6
  deriving DecidableEq, Repr

/-- The trim file CAL0 to CAL17: each coefficient's stored bits, at the width of R15's table. -/
structure Trim where
  t1 : BitVec 16
  t2 : BitVec 16
  t3 : BitVec 16
  p1 : BitVec 16
  p2 : BitVec 16
  p3 : BitVec 16
  p4 : BitVec 16
  p5 : BitVec 16
  p6 : BitVec 16
  p7 : BitVec 16
  p8 : BitVec 16
  p9 : BitVec 16
  h1 : BitVec 8
  h2 : BitVec 16
  h3 : BitVec 8
  h4 : BitVec 12
  h5 : BitVec 12
  h6 : BitVec 8
  deriving DecidableEq, Repr

/-- The fields of STATUS (10_state.md R22). Its reserved bits hold nothing and read 0; `Status.toWord` is the 32-bit
register. -/
structure Status where
  /-- Bit 0: the trim file is sealed. -/
  cal : Bool
  /-- Bit 1: TFINE holds a value computed with the current seal. -/
  tfv : Bool
  /-- Bit 2: the environmental readings hold a sample. -/
  envv : Bool
  /-- Bit 3: the thermopile readings hold a sample. -/
  tpv : Bool
  /-- Bit 4: RD_LUX holds a sample. -/
  luxv : Bool
  /-- Bit 5: the last pressure computation took the zero guard. -/
  pzero : Bool
  /-- Bit 6: the last humidity computation clamped at 0. -/
  hclo : Bool
  /-- Bit 7: the last humidity computation clamped at 419430400. -/
  hchi : Bool
  /-- Bit 16: an exception has been captured. -/
  err : Bool
  /-- Bit 17: a further exception occurred while ERR was 1. -/
  eovf : Bool
  /-- Bits 23:20: the cause code of the captured exception. -/
  ecode : BitVec 4
  deriving DecidableEq, Repr

/-- The five exceptions (60_exceptions.md R89). -/
inductive Cause where
  /-- A CMD write whose word fails a check of 30_encoding.md R47. -/
  | illegalCmd
  /-- A compensation command while STATUS.CAL = 0. -/
  | nocal
  /-- COMPH or COMPP while STATUS.CAL = 1 and STATUS.TFV = 0. -/
  | notfine
  /-- A write to the trim file while STATUS.CAL = 1. -/
  | calLocked
  /-- A host access that 20_memory.md R30 refuses. -/
  | hostAccess
  deriving DecidableEq, Repr

/-- What the outside does to the block: the host's window accesses (20_memory.md R30) and the platform's reset signal
(70_reset_and_hazards.md R103). -/
inductive HostEvent where
  /-- `MemRead(addr, n)`. -/
  | read (addr : WindowAddr) (n : Nat)
  /-- `MemWrite(addr, n, v)`; `v` is 32 bits. -/
  | write (addr : WindowAddr) (n : Nat) (v : Word)
  /-- The platform's reset signal. -/
  | resetSignal
  deriving DecidableEq, Repr

/-- All the state 10_state.md gives the block (R11 to R27), and two fields of the model's own for the host port
(DESIGN CHOICE, log entry 1; safe): the accesses the host has still to make, and the data its last read returned.
CTRL and CMD store nothing (R21, R26) and ID is a constant (R20). -/
structure State where
  /-- X0 to X15 (R12). -/
  x : Vector Word 16
  /-- RAW0 to RAW7 (R14). -/
  raw : Vector Byte 8
  /-- CAL0 to CAL17 (R15). -/
  cal : Trim
  /-- TFINE (R18). -/
  tfine : Word
  /-- RD_T100 (R19). -/
  rdT100 : Word
  /-- RD_RH10 (R19). -/
  rdRh10 : Word
  /-- RD_PA (R19). -/
  rdPa : Word
  /-- RD_TPINT (R19). -/
  rdTpint : Word
  /-- RD_TPEXT (R19). -/
  rdTpext : Word
  /-- RD_LUX (R19). -/
  rdLux : Word
  /-- STATUS (R22). -/
  status : Status
  /-- EINFO (R25). -/
  einfo : Word
  /-- The model's own: the host's accesses to come, the next one first. A program is the host's sequence of accesses
  (R13). -/
  pending : List HostEvent
  /-- The model's own: what the host's last read returned; none before the first. -/
  readData : Option Word
  deriving DecidableEq, Repr

/-- The reasons a step stops with a fault: there are none. Every command and every host access completes
(70_reset_and_hazards.md R110, 60_exceptions.md R92, R93), so no constructor exists and no one raises a fault
(DEDUCED, log entry 3; safe). -/
inductive Fault where
  deriving DecidableEq, Repr

/-- The reasons a step is refused. -/
inductive Refusal where
  /-- Raised by an arm of `exec` whose instruction has no meaning yet. No arm raises it: all 26 commands are modelled.
  Safe: the machine stops and no claim about a next state follows. -/
  | notModelled (mnemonic : String)
  deriving DecidableEq, Repr

/-- The trim file at reset: all zero, the source's pre-calibration sentinel (R15, R104). -/
def Trim.zero : Trim :=
  { t1 := 0, t2 := 0, t3 := 0, p1 := 0, p2 := 0, p3 := 0, p4 := 0, p5 := 0, p6 := 0, p7 := 0, p8 := 0, p9 := 0,
    h1 := 0, h2 := 0, h3 := 0, h4 := 0, h5 := 0, h6 := 0 }

/-- STATUS at reset: every field 0 (R22, R104). -/
def Status.zero : Status :=
  { cal := false, tfv := false, envv := false, tpv := false, luxv := false, pzero := false, hclo := false,
    hchi := false, err := false, eovf := false, ecode := 0 }

/-- The machine right after reset (R104). The host has made no access yet and none is pending: the block waits for the
host's first access. -/
def State.reset : State :=
  { x := Vector.replicate 16 0, raw := Vector.replicate 8 0, cal := Trim.zero, tfine := 0, rdT100 := 0, rdRh10 := 0,
    rdPa := 0, rdTpint := 0, rdTpext := 0, rdLux := 0, status := Status.zero, einfo := 0, pending := [],
    readData := none }

end Sys2Proof.Machine
end

