-- ==== Sys2Proof/Machine/Arith.lean ====
section
/-! DEFINITION. The arithmetic of 00_scope.md R7 and R8: mathematical integers, narrowed explicitly by each primitive.
`n` is the width, 32 or 64. -/

namespace Sys2Proof.Machine

/-- `2^k` as an integer. -/
def pow2 (k : Nat) : Int := ((2 ^ k : Nat) : Int)

/-- `wrapS_n(i)`: the integer in `[-2^(n-1), 2^(n-1))` congruent to `i` modulo `2^n` (R7). -/
def wrapS (n : Nat) (i : Int) : Int := i.bmod (2 ^ n)

/-- `wrapU_n(i)`: the integer in `[0, 2^n)` congruent to `i` modulo `2^n` (R7). -/
def wrapU (n : Nat) (i : Int) : Int := i % pow2 n

/-- `add_n(a,b)` (R8). -/
def addS (n : Nat) (a b : Int) : Int := wrapS n (a + b)

/-- `sub_n(a,b)` (R8). -/
def subS (n : Nat) (a b : Int) : Int := wrapS n (a - b)

/-- `mul_n(a,b)` (R8). -/
def mulS (n : Nat) (a b : Int) : Int := wrapS n (a * b)

/-- `shl_n(a,k)`: a multiplication by `2^k`, wrapped, for negative `a` too (R8). -/
def shlS (n : Nat) (a : Int) (k : Nat) : Int := wrapS n (a * pow2 k)

/-- `asr(a,k)`: `floor(a / 2^k)` (R8); integer division by a positive number rounds toward minus infinity. -/
def asr (a : Int) (k : Nat) : Int := a / pow2 k

/-- `lsr(a,k)` for `a >= 0`: `floor(a / 2^k)` (R8). -/
def lsr (a : Int) (k : Nat) : Int := a / pow2 k

/-- `tdiv_n(a,b)` for `b != 0`: the quotient truncated toward zero, then wrapped (R8). -/
def tdivS (n : Nat) (a b : Int) : Int := wrapS n (a.tdiv b)

/-- `udiv(a,b)` for `a >= 0` and `b > 0`: `floor(a/b)` (R8). -/
def udiv (a b : Int) : Int := a / b

/-- `addu_32(a,b)`, at width `n` (R8). -/
def addU (n : Nat) (a b : Int) : Int := wrapU n (a + b)

/-- `mulu_32(a,b)`, at width `n` (R8). -/
def mulU (n : Nat) (a b : Int) : Int := wrapU n (a * b)

/-- Writing an integer to a 32-bit register stores the low 32 bits of its two's complement form (R7). -/
def wordOf (i : Int) : Word := BitVec.ofInt 32 i

end Sys2Proof.Machine
end

