-- ==== Sys2Proof/Machine/Ops.lean ====
section
/-! DEFINITION. The named operations over the block's state: the register files (10_state.md R12, R14), the trim file
(R15 to R17), taking an exception and returning from one (60_exceptions.md R92, R94), and reset
(70_reset_and_hazards.md R104). -/

namespace Sys2Proof.Machine

/-- `x[r]` (R12). -/
def State.reg (s : State) (r : Reg) : Word := s.x[r.toNat]'(r.isLt)

/-- `x[r] <- v` (R12). -/
def State.setReg (s : State) (r : Reg) (v : Word) : State := { s with x := s.x.set r.toNat v r.isLt }

/-- `raw[k]` (R14). -/
def State.rawByte (s : State) (k : BitVec 3) : Byte := s.raw[k.toNat]'(k.isLt)

/-- `raw[k] <- v` (R14). -/
def State.setRaw (s : State) (k : BitVec 3) (v : Byte) : State := { s with raw := s.raw.set k.toNat v k.isLt }

/-- The coefficients in the order of their numbers `k` = 0 to 17 (R15). -/
def Coef.all : List Coef :=
  [.t1, .t2, .t3, .p1, .p2, .p3, .p4, .p5, .p6, .p7, .p8, .p9, .h1, .h2, .h3, .h4, .h5, .h6]

/-- The coefficient numbered `k`; none for `k > 17` (R15, 30_encoding.md R45). -/
def Coef.ofIndex? (k : Nat) : Option Coef := Coef.all[k]?

/-- A coefficient's number `k` (R15). -/
def Coef.index : Coef → Nat
  | .t1 => 0 | .t2 => 1 | .t3 => 2
  | .p1 => 3 | .p2 => 4 | .p3 => 5 | .p4 => 6 | .p5 => 7 | .p6 => 8 | .p7 => 9 | .p8 => 10 | .p9 => 11
  | .h1 => 12 | .h2 => 13 | .h3 => 14 | .h4 => 15 | .h5 => 16 | .h6 => 17

/-- `calv(k)`: the reading R15's table names, applied to the stored bits. `h45Signed` is the parameter `H45_SIGNED`
(R16). -/
def Trim.value (t : Trim) (h45Signed : Bool) : Coef → Int
  | .t1 => (t.t1.toNat : Int)
  | .t2 => t.t2.toInt
  | .t3 => t.t3.toInt
  | .p1 => (t.p1.toNat : Int)
  | .p2 => t.p2.toInt
  | .p3 => t.p3.toInt
  | .p4 => t.p4.toInt
  | .p5 => t.p5.toInt
  | .p6 => t.p6.toInt
  | .p7 => t.p7.toInt
  | .p8 => t.p8.toInt
  | .p9 => t.p9.toInt
  | .h1 => (t.h1.toNat : Int)
  | .h2 => t.h2.toInt
  | .h3 => (t.h3.toNat : Int)
  | .h4 => if h45Signed then t.h4.toInt else (t.h4.toNat : Int)
  | .h5 => if h45Signed then t.h5.toInt else (t.h5.toNat : Int)
  | .h6 => t.h6.toInt

/-- `cal[k] <- v[w-1:0]`, `w` the coefficient's width; the bits above are discarded (R17). -/
def Trim.write (t : Trim) (c : Coef) (v : Word) : Trim :=
  match c with
  | .t1 => { t with t1 := v.setWidth 16 }
  | .t2 => { t with t2 := v.setWidth 16 }
  | .t3 => { t with t3 := v.setWidth 16 }
  | .p1 => { t with p1 := v.setWidth 16 }
  | .p2 => { t with p2 := v.setWidth 16 }
  | .p3 => { t with p3 := v.setWidth 16 }
  | .p4 => { t with p4 := v.setWidth 16 }
  | .p5 => { t with p5 := v.setWidth 16 }
  | .p6 => { t with p6 := v.setWidth 16 }
  | .p7 => { t with p7 := v.setWidth 16 }
  | .p8 => { t with p8 := v.setWidth 16 }
  | .p9 => { t with p9 := v.setWidth 16 }
  | .h1 => { t with h1 := v.setWidth 8 }
  | .h2 => { t with h2 := v.setWidth 16 }
  | .h3 => { t with h3 := v.setWidth 8 }
  | .h4 => { t with h4 := v.setWidth 12 }
  | .h5 => { t with h5 := v.setWidth 12 }
  | .h6 => { t with h6 := v.setWidth 8 }

/-- `calv(k)` of this block (R16). -/
def State.calv (s : State) (c : Coef) : Int := s.cal.value Config.h45Signed c

/-- `cal[k] <- v`, once the caller has found the trim file open (R17). -/
def State.writeCal (s : State) (c : Coef) (v : Word) : State := { s with cal := s.cal.write c v }

/-- The cause code recorded in STATUS.ECODE (60_exceptions.md R89). -/
def Cause.code : Cause → BitVec 4
  | .illegalCmd => 1
  | .nocal => 2
  | .notfine => 3
  | .calLocked => 4
  | .hostAccess => 5

/-- Taking an exception: `capture(E, info)` of 60_exceptions.md R92. The first is recorded; while ERR = 1 a further one
sets EOVF only. Nothing else changes: there is no vector, no saved pc and no mode. -/
def State.capture (s : State) (e : Cause) (info : Word) : State :=
  if s.status.err then { s with status := { s.status with eovf := true } }
  else { s with status := { s.status with err := true, ecode := e.code }, einfo := info }

/-- The return from an exception: clearing ERR, EOVF, ECODE and EINFO to 0 (60_exceptions.md R94, 10_state.md R22). -/
def State.clearException (s : State) : State :=
  { s with status := { s.status with err := false, eovf := false, ecode := 0 }, einfo := 0 }

/-- `raise E(w)` by a command: its information value is the command word (R89). The word of a command is its encoding,
every other bit of it being reserved and 0 (DEDUCED, log entry 4; safe). -/
def raiseCommand (e : Cause) (i : Instr) (s : State) : Host.Outcome State Fault Refusal :=
  .next (s.capture e (encode i))

/-- Reset of the block (70_reset_and_hazards.md R103, R104): every piece of the block's state at its reset value. The
model's own host-port fields are the host's and stay (DESIGN CHOICE, log entry 8; safe). -/
def State.resetBlock (s : State) : State :=
  { State.reset with pending := s.pending, readData := s.readData }

end Sys2Proof.Machine
end

