-- ==== Sys2Proof/Machine/Operands.lean ====
section
/-! DEFINITION. The operand forms of the commands: the readings `s(x[rs])` and `u(x[rs])` (00_scope.md R7), the byte and
halfword fields of a register (20_memory.md R34), the immediate (30_encoding.md R44) and the GETR selector (R45). -/

namespace Sys2Proof.Machine

/-- `s(x[rs])`: the signed reading (R7). -/
def State.regS (s : State) (rs : Reg) : Int := (s.reg rs).toInt

/-- `u(x[rs])`: the unsigned reading (R7). -/
def State.regU (s : State) (rs : Reg) : Int := ((s.reg rs).toNat : Int)

/-- `v[8j+7:8j]` as an unsigned number (R6): byte 3 is the most significant, the first in transfer order of a four-byte
operand (20_memory.md R34). -/
def byteOf (v : Word) (j : Nat) : Int := ((v.extractLsb' (8 * j) 8).toNat : Int)

/-- `v[15:0]`: the raw 16-bit word in a register (42_unpack.md R66). -/
def halfOf (v : Word) : BitVec 16 := v.extractLsb' 0 16

/-- `zext_16(imm16)` (30_encoding.md R44). -/
def immLow (imm : BitVec 16) : Word := imm.setWidth 32

/-- `imm16` in bits 31:16 over the old bits 15:0 (30_encoding.md R44, 41_control.md R56). -/
def immHigh (imm : BitVec 16) (old : Word) : Word := wordOf ((imm.toNat : Int) * pow2 16 + ((halfOf old).toNat : Int))

end Sys2Proof.Machine
end

