-- ==== Sys2Proof/Machine/Flags.lean ====
section
/-! DEFINITION. STATUS as a 32-bit register (10_state.md R22), its valid bits (R23), its condition flags (R24), and the
registers GETR selects (30_encoding.md R45). -/

namespace Sys2Proof.Machine

/-- The 32 bits of STATUS (R22): reserved bits 31:24, 19:18 and 15:8 read 0. -/
def Status.toWord (t : Status) : Word :=
  0#8 ++ t.ecode ++ 0#2 ++ BitVec.ofBool t.eovf ++ BitVec.ofBool t.err ++ 0#8 ++
    BitVec.ofBool t.hchi ++ BitVec.ofBool t.hclo ++ BitVec.ofBool t.pzero ++ BitVec.ofBool t.luxv ++
    BitVec.ofBool t.tpv ++ BitVec.ofBool t.envv ++ BitVec.ofBool t.tfv ++ BitVec.ofBool t.cal

/-- CALSEAL's effect on the valid bits: CAL is set, TFV kept (R23, 41_control.md R60). -/
def Status.seal (t : Status) : Status := { t with cal := true }

/-- CALOPEN's effect on the valid bits: CAL and TFV are cleared (R23, 41_control.md R61). -/
def Status.unseal (t : Status) : Status := { t with cal := false, tfv := false }

/-- COMPH's and ENVSAMPLE's write of HCLO and HCHI: each set or cleared (R24). -/
def Status.withHumidityFlags (t : Status) (lo hi : Bool) : Status := { t with hclo := lo, hchi := hi }

/-- COMPP's and ENVSAMPLE's write of PZERO: set or cleared (R24). -/
def Status.withPressureFlag (t : Status) (zero : Bool) : Status := { t with pzero := zero }

/-- The register GETR's selector names; none for 8 to 15 (30_encoding.md R45, 41_control.md R57). -/
def State.selected? (s : State) (sel : BitVec 4) : Option Word :=
  match sel.toNat with
  | 0 => some s.tfine
  | 1 => some s.rdT100
  | 2 => some s.rdRh10
  | 3 => some s.rdPa
  | 4 => some s.rdTpint
  | 5 => some s.rdTpext
  | 6 => some s.rdLux
  | 7 => some s.status.toWord
  | _ => none

end Sys2Proof.Machine
end

