-- ==== Sys2Proof/Machine/Unpack.lean ====
section
/-! DEFINITION. The unpack and extract commands and the functions they define (42_unpack.md R63 to R68). -/

namespace Sys2Proof.Machine

/-- `unpack20(b0, b1, b2)` (R63). -/
def unpack20 (b0 b1 b2 : Int) : Int := b0 * pow2 12 + b1 * pow2 4 + b2 / pow2 4

/-- `unpack16(b0, b1)` (R64). -/
def unpack16 (b0 b1 : Int) : Int := b0 * pow2 8 + b1

/-- `packH4(e4, e5a)` (R65). -/
def packH4 (e4 e5a : Int) : Int := e4 * pow2 4 + e5a % pow2 4

/-- `packH5(e5b, e6)` (R65). -/
def packH5 (e5b e6 : Int) : Int := e5b / pow2 4 + e6 * pow2 4

/-- `field14(r) = asr(sext_16(r), 2)`, in units of 1/32 °C (R66). -/
def field14 (r : BitVec 16) : Int := asr r.toInt 2

/-- `exponent(r) = r[15:12]` (R67). -/
def exponent (r : BitVec 16) : BitVec 4 := r.extractLsb' 12 4

/-- `mantissa(r) = r[11:0]` (R68). -/
def mantissa (r : BitVec 16) : BitVec 12 := r.extractLsb' 0 12

/-- UNPK20 (R63). -/
def execUnpk20 (rd rs : Reg) (s : State) : Host.Outcome State Fault Refusal :=
  let v := s.reg rs
  .next (s.setReg rd (wordOf (unpack20 (byteOf v 2) (byteOf v 1) (byteOf v 0))))

/-- UNPK16 (R64). -/
def execUnpk16 (rd rs : Reg) (s : State) : Host.Outcome State Fault Refusal :=
  let v := s.reg rs
  .next (s.setReg rd (wordOf (unpack16 (byteOf v 1) (byteOf v 0))))

/-- UNPKH45: CAL_LOCKED while sealed, else H4 and H5 from `e4, e5a, e5b, e6` in bits 31:24 to 7:0 (R65). -/
def execUnpkh45 (rs : Reg) (s : State) : Host.Outcome State Fault Refusal :=
  let v := s.reg rs
  if s.status.cal then raiseCommand .calLocked (.unpkh45 rs) s
  else
    .next ((s.writeCal .h4 (wordOf (packH4 (byteOf v 3) (byteOf v 2)))).writeCal .h5
      (wordOf (packH5 (byteOf v 1) (byteOf v 0))))

/-- FLD14 (R66). -/
def execFld14 (rd rs : Reg) (s : State) : Host.Outcome State Fault Refusal :=
  .next (s.setReg rd (wordOf (field14 (halfOf (s.reg rs)))))

/-- LEXP (R67). -/
def execLexp (rd rs : Reg) (s : State) : Host.Outcome State Fault Refusal :=
  .next (s.setReg rd ((exponent (halfOf (s.reg rs))).setWidth 32))

/-- LMANT (R68). -/
def execLmant (rd rs : Reg) (s : State) : Host.Outcome State Fault Refusal :=
  .next (s.setReg rd ((mantissa (halfOf (s.reg rs))).setWidth 32))

end Sys2Proof.Machine
end

