-- ==== Sys2Proof/Machine/Scale.lean ====
section
/-! DEFINITION. The linear scale commands and the functions they define (43_scale.md R69 to R77), one primitive of
00_scope.md R8 per operator, at 32 bits. -/

namespace Sys2Proof.Machine

/-- `t32t10(v)`: 1/32 °C to tenths of °C (R69). -/
def t32t10 (v : Int) : Int := asr (addS 32 (mulS 32 v 10) 16) 5

/-- `tpdec(r)`: a thermopile word to tenths of °C (R70). -/
def tpdec (r : BitVec 16) : Int := t32t10 (field14 r)

/-- `c10f10(c)`: tenths of °C to tenths of °F, the division truncating (R72, 90_conflicts.md C3). -/
def c10f10 (c : Int) : Int := addS 32 (tdivS 32 (addS 32 (mulS 32 c 18) 5) 10) 320

/-- `lux(r)`: a light-sensor word to lux, grouped `((m << e) + 50) / 100` (R73, 90_conflicts.md C2). -/
def lux (r : BitVec 16) : Int :=
  udiv (addU 32 (mulU 32 ((mantissa r).toNat : Int) (pow2 (exponent r).toNat)) 50) 100

/-- `c100f10(c)`: hundredths of °C to tenths of °F (R74). -/
def c100f10 (c : Int) : Int := addS 32 (tdivS 32 (addS 32 (tdivS 32 (mulS 32 c 9) 5) 5) 10) 320

/-- `painhg(p)`: pascals to hundredths of inHg (R75, 90_conflicts.md C4). -/
def painhg (p : Int) : Int := udiv (mulU 32 p 100) 3386

/-- TPDEC (R70). -/
def execTpdec (rd rs : Reg) (s : State) : Host.Outcome State Fault Refusal :=
  .next (s.setReg rd (wordOf (tpdec (halfOf (s.reg rs)))))

/-- T32T10 (R69). -/
def execT32t10 (rd rs : Reg) (s : State) : Host.Outcome State Fault Refusal :=
  .next (s.setReg rd (wordOf (t32t10 (s.regS rs))))

/-- C10F10 (R72). -/
def execC10f10 (rd rs : Reg) (s : State) : Host.Outcome State Fault Refusal :=
  .next (s.setReg rd (wordOf (c10f10 (s.regS rs))))

/-- LUXDEC (R73). -/
def execLuxdec (rd rs : Reg) (s : State) : Host.Outcome State Fault Refusal :=
  .next (s.setReg rd (wordOf (lux (halfOf (s.reg rs)))))

/-- C100F10 (R74). -/
def execC100f10 (rd rs : Reg) (s : State) : Host.Outcome State Fault Refusal :=
  .next (s.setReg rd (wordOf (c100f10 (s.regS rs))))

/-- PAINHG (R75). -/
def execPainhg (rd rs : Reg) (s : State) : Host.Outcome State Fault Refusal :=
  .next (s.setReg rd (wordOf (painhg (s.regU rs))))

/-- TPSAMPLE: both thermopile readings together, and TPV (R76). -/
def execTpsample (rs1 rs2 : Reg) (s : State) : Host.Outcome State Fault Refusal :=
  .next { s with
    rdTpint := wordOf (tpdec (halfOf (s.reg rs1)))
    rdTpext := wordOf (tpdec (halfOf (s.reg rs2)))
    status := { s.status with tpv := true } }

/-- LUXSAMPLE: the lux reading, and LUXV (R77). -/
def execLuxsample (rs : Reg) (s : State) : Host.Outcome State Fault Refusal :=
  .next { s with
    rdLux := wordOf (lux (halfOf (s.reg rs)))
    status := { s.status with luxv := true } }

end Sys2Proof.Machine
end

