-- ==== Sys2Proof/Machine/Compensation.lean ====
section
/-! DEFINITION. The compensation filter (44_compensation.md): the three stage functions of R80, R81 and R82, one
primitive of 00_scope.md R8 per line of their chains, and the commands COMPT, COMPH, COMPP and ENVSAMPLE (R85 to R88).
A stage takes the coefficient values `calv` as a function `cv` of the coefficient. The chains are the spec's own text
from general knowledge (UNVERIFIED, log entry 11; unsafe against a real sensor's reference). -/

namespace Sys2Proof.Machine

/-- The result `(tf, t100)` of the temperature stage (R80). -/
structure TempResult where
  tf : Int
  t100 : Int
  deriving DecidableEq, Repr

/-- The result `(c, rh10, lo, hi)` of the humidity stage (R81). -/
structure HumResult where
  c : Int
  rh10 : Int
  lo : Bool
  hi : Bool
  deriving DecidableEq, Repr

/-- The result `(pa, zero)` of the pressure stage (R82). -/
structure PresResult where
  pa : Int
  zero : Bool
  deriving DecidableEq, Repr

/-- `compT(adcT)` (R80). -/
def compT (cv : Coef → Int) (adcT : Int) : TempResult :=
  let a := subS 32 (asr adcT 3) (shlS 32 (cv .t1) 1)
  let v1 := asr (mulS 32 a (cv .t2)) 11
  let b := subS 32 (asr adcT 4) (cv .t1)
  let v2 := asr (mulS 32 (asr (mulS 32 b b) 12) (cv .t3)) 14
  let tf := addS 32 v1 v2
  let t100 := asr (addS 32 (mulS 32 tf 5) 128) 8
  { tf := tf, t100 := t100 }

/-- The chain `x` to `v2` of `compH` (R81): the pre-clamp accumulator. -/
def humAccum (cv : Coef → Int) (adcH tf : Int) : Int :=
  let x := subS 32 tf 76800
  let u := subS 32 (subS 32 (shlS 32 adcH 14) (shlS 32 (cv .h4) 20)) (mulS 32 (cv .h5) x)
  let u2 := asr (addS 32 u 16384) 15
  let w1 := asr (mulS 32 x (cv .h6)) 10
  let y := addS 32 (asr (mulS 32 x (cv .h3)) 11) 32768
  let w2 := addS 32 (asr (mulS 32 w1 y) 10) 2097152
  let w3 := asr (addS 32 (mulS 32 w2 (cv .h2)) 8192) 14
  let v := mulS 32 u2 w3
  let z := asr v 15
  subS 32 v (asr (mulS 32 (asr (mulS 32 z z) 7) (cv .h1)) 4)

/-- The clamp and final scaling of `compH` (R81): to `[0, 419430400]`, then tenths of %RH by `(c >> 12) / 102`. -/
def humClamp (v2 : Int) : HumResult :=
  let c := min (max v2 0) 419430400
  { c := c, rh10 := udiv (lsr c 12) 102, lo := decide (v2 < 0), hi := decide (v2 > 419430400) }

/-- `compH(adcH, tf)` (R81). -/
def compH (cv : Coef → Int) (adcH tf : Int) : HumResult := humClamp (humAccum cv adcH tf)

/-- The stage-one accumulator `a3` of `compP` (R82). -/
def presAccum (cv : Coef → Int) (tf : Int) : Int :=
  let a1 := subS 64 tf 128000
  let a2 := addS 64 (asr (mulS 64 (mulS 64 a1 a1) (cv .p3)) 8) (shlS 64 (mulS 64 a1 (cv .p2)) 12)
  asr (mulS 64 (addS 64 (pow2 47) a2) (cv .p1)) 33

/-- The offset `b3` of `compP` (R82). -/
def presOffset (cv : Coef → Int) (tf : Int) : Int :=
  let a1 := subS 64 tf 128000
  let b1 := mulS 64 (mulS 64 a1 a1) (cv .p6)
  let b2 := addS 64 b1 (shlS 64 (mulS 64 a1 (cv .p5)) 17)
  addS 64 b2 (shlS 64 (cv .p4) 35)

/-- The quotient `p1` of `compP`, for a non-zero accumulator (R82). -/
def presQuotient (cv : Coef → Int) (adcP tf : Int) : Int :=
  let p0 := subS 32 1048576 adcP
  tdivS 64 (mulS 64 (subS 64 (shlS 64 p0 31) (presOffset cv tf)) 3125) (presAccum cv tf)

/-- The corrections `c1`, `c2` and the result `p2` of `compP`, from the quotient `p1` (R82). -/
def presCorrect (cv : Coef → Int) (p1 : Int) : Int :=
  let c1 := asr (mulS 64 (mulS 64 (cv .p9) (asr p1 13)) (asr p1 13)) 25
  let c2 := asr (mulS 64 (cv .p8) p1) 19
  addS 64 (asr (addS 64 (addS 64 p1 c1) c2) 8) (shlS 64 (cv .p7) 4)

/-- `compP(adcP, tf)`: the zero guard, then `lsr(wrapU_32(p2), 8)` (R82). -/
def compP (cv : Coef → Int) (adcP tf : Int) : PresResult :=
  if presAccum cv tf = 0 then { pa := 0, zero := true }
  else { pa := lsr (wrapU 32 (presCorrect cv (presQuotient cv adcP tf))) 8, zero := false }

/-- COMPT's writes, together: TFINE, TFV and `x[rd]` (R85, 20_memory.md R38). -/
def State.storeTemp (s : State) (rd : Reg) (r : TempResult) : State :=
  { s with tfine := wordOf r.tf, status := { s.status with tfv := true } }.setReg rd (wordOf r.t100)

/-- COMPH's writes, together: HCLO, HCHI and `x[rd]` (R86). -/
def State.storeHum (s : State) (rd : Reg) (r : HumResult) : State :=
  { s with status := s.status.withHumidityFlags r.lo r.hi }.setReg rd (wordOf r.rh10)

/-- COMPP's writes, together: PZERO and `x[rd]` (R87). -/
def State.storePres (s : State) (rd : Reg) (r : PresResult) : State :=
  { s with status := s.status.withPressureFlag r.zero }.setReg rd (wordOf r.pa)

/-- ENVSAMPLE's writes, together: TFINE, the three readings, TFV, ENVV and the condition flags (R88). -/
def State.storeSample (s : State) (t : TempResult) (h : HumResult) (p : PresResult) : State :=
  { s with
    tfine := wordOf t.tf
    rdT100 := wordOf t.t100
    rdRh10 := wordOf h.rh10
    rdPa := wordOf p.pa
    status := { (s.status.withHumidityFlags h.lo h.hi).withPressureFlag p.zero with tfv := true, envv := true } }

/-- COMPT: NOCAL while unsealed, else the temperature stage on `s(x[rs])` (R85). -/
def execCompt (rd rs : Reg) (s : State) : Host.Outcome State Fault Refusal :=
  if s.status.cal then .next (s.storeTemp rd (compT s.calv (s.regS rs)))
  else raiseCommand .nocal (.compt rd rs) s

/-- COMPH: NOCAL, then NOTFINE, else the humidity stage on `s(x[rs])` and TFINE (R86, 60_exceptions.md R91). -/
def execComph (rd rs : Reg) (s : State) : Host.Outcome State Fault Refusal :=
  if s.status.cal then
    if s.status.tfv then .next (s.storeHum rd (compH s.calv (s.regS rs) s.tfine.toInt))
    else raiseCommand .notfine (.comph rd rs) s
  else raiseCommand .nocal (.comph rd rs) s

/-- COMPP: NOCAL, then NOTFINE, else the pressure stage on `s(x[rs])` and TFINE (R87, 60_exceptions.md R91). -/
def execCompp (rd rs : Reg) (s : State) : Host.Outcome State Fault Refusal :=
  if s.status.cal then
    if s.status.tfv then .next (s.storePres rd (compP s.calv (s.regS rs) s.tfine.toInt))
    else raiseCommand .notfine (.compp rd rs) s
  else raiseCommand .nocal (.compp rd rs) s

/-- A burst buffer byte as an integer (R88). -/
def State.rawInt (s : State) (k : BitVec 3) : Int := ((s.rawByte k).toNat : Int)

/-- `adcP` of the burst buffer (R88, 10_state.md R14). -/
def State.burstP (s : State) : Int := unpack20 (s.rawInt 0) (s.rawInt 1) (s.rawInt 2)

/-- `adcT` of the burst buffer (R88, 10_state.md R14). -/
def State.burstT (s : State) : Int := unpack20 (s.rawInt 3) (s.rawInt 4) (s.rawInt 5)

/-- `adcH` of the burst buffer (R88, 10_state.md R14). -/
def State.burstH (s : State) : Int := unpack16 (s.rawInt 6) (s.rawInt 7)

/-- The temperature stage of ENVSAMPLE (R88). -/
def State.envTemp (s : State) : TempResult := compT s.calv s.burstT

/-- ENVSAMPLE: NOCAL while unsealed, else the three stages on the burst buffer, the last two with the `t_fine` computed
here and never the old TFINE (R88). -/
def execEnvsample (s : State) : Host.Outcome State Fault Refusal :=
  if s.status.cal then
    .next (s.storeSample s.envTemp (compH s.calv s.burstH s.envTemp.tf) (compP s.calv s.burstP s.envTemp.tf))
  else raiseCommand .nocal .envsample s

end Sys2Proof.Machine
end

