-- ==== Sys2Proof/Machine/Control.lean ====
section
/-! DEFINITION. The control and data-movement commands (41_control.md R54 to R61). -/

namespace Sys2Proof.Machine

/-- NOP does nothing (R54). -/
def execNop (s : State) : Host.Outcome State Fault Refusal := .next s

/-- LDI: `x[rd] <- zext_16(imm16)` (R55). -/
def execLdi (rd : Reg) (imm : BitVec 16) (s : State) : Host.Outcome State Fault Refusal :=
  .next (s.setReg rd (immLow imm))

/-- LDIH: `x[rd] <- zext_16(imm16) * 2^16 + zext_16(x[rd])` (R56). -/
def execLdih (rd : Reg) (imm : BitVec 16) (s : State) : Host.Outcome State Fault Refusal :=
  .next (s.setReg rd (immHigh imm (s.reg rd)))

/-- GETR copies a result register or STATUS; the valid bits are not checked and nothing is cleared (R57). An illegal
selector raises ILLEGAL_CMD (30_encoding.md R45; DEDUCED, log entry 5: the decoder never gives one). -/
def execGetr (rd : Reg) (sel : BitVec 4) (s : State) : Host.Outcome State Fault Refusal :=
  match s.selected? sel with
  | some v => .next (s.setReg rd v)
  | none => raiseCommand .illegalCmd (.getr rd sel) s

/-- SETRAW: `raw[k] <- x[rs][7:0]` (R58). -/
def execSetraw (k : BitVec 3) (rs : Reg) (s : State) : Host.Outcome State Fault Refusal :=
  .next (s.setRaw k ((s.reg rs).setWidth 8))

/-- WCAL: CAL_LOCKED while sealed, else `cal[k] <- x[rs]` at the coefficient's width (R59). ILLEGAL_CMD for `k > 17`
comes first (60_exceptions.md R91; log entry 5: the decoder never gives one). -/
def execWcal (k : BitVec 5) (rs : Reg) (s : State) : Host.Outcome State Fault Refusal :=
  match Coef.ofIndex? k.toNat with
  | none => raiseCommand .illegalCmd (.wcal k rs) s
  | some c => if s.status.cal then raiseCommand .calLocked (.wcal k rs) s else .next (s.writeCal c (s.reg rs))

/-- CALSEAL: `status.CAL <- 1` (R60). -/
def execCalseal (s : State) : Host.Outcome State Fault Refusal := .next { s with status := s.status.seal }

/-- CALOPEN: `status.CAL <- 0; status.TFV <- 0` (R61). -/
def execCalopen (s : State) : Host.Outcome State Fault Refusal := .next { s with status := s.status.unseal }

end Sys2Proof.Machine
end

