-- ==== Sys2Proof/Machine/Dispatch.lean ====
section
/-! DEFINITION. The meaning of each command, one arm per constructor of Instr (30_encoding.md R46). -/

namespace Sys2Proof.Machine

def exec (i : Instr) (s : State) : Host.Outcome State Fault Refusal :=
  match i with
  | .nop => Sys2Proof.Machine.execNop s
  | .ldi rd imm => Sys2Proof.Machine.execLdi rd imm s
  | .ldih rd imm => Sys2Proof.Machine.execLdih rd imm s
  | .getr rd sel => Sys2Proof.Machine.execGetr rd sel s
  | .setraw k rs => Sys2Proof.Machine.execSetraw k rs s
  | .wcal k rs => Sys2Proof.Machine.execWcal k rs s
  | .calseal => Sys2Proof.Machine.execCalseal s
  | .calopen => Sys2Proof.Machine.execCalopen s
  | .unpk20 rd rs => Sys2Proof.Machine.execUnpk20 rd rs s
  | .unpk16 rd rs => Sys2Proof.Machine.execUnpk16 rd rs s
  | .unpkh45 rs => Sys2Proof.Machine.execUnpkh45 rs s
  | .fld14 rd rs => Sys2Proof.Machine.execFld14 rd rs s
  | .lexp rd rs => Sys2Proof.Machine.execLexp rd rs s
  | .lmant rd rs => Sys2Proof.Machine.execLmant rd rs s
  | .tpdec rd rs => Sys2Proof.Machine.execTpdec rd rs s
  | .t32t10 rd rs => Sys2Proof.Machine.execT32t10 rd rs s
  | .c10f10 rd rs => Sys2Proof.Machine.execC10f10 rd rs s
  | .luxdec rd rs => Sys2Proof.Machine.execLuxdec rd rs s
  | .c100f10 rd rs => Sys2Proof.Machine.execC100f10 rd rs s
  | .painhg rd rs => Sys2Proof.Machine.execPainhg rd rs s
  | .tpsample rs1 rs2 => Sys2Proof.Machine.execTpsample rs1 rs2 s
  | .luxsample rs => Sys2Proof.Machine.execLuxsample rs s
  | .compt rd rs => Sys2Proof.Machine.execCompt rd rs s
  | .comph rd rs => Sys2Proof.Machine.execComph rd rs s
  | .compp rd rs => Sys2Proof.Machine.execCompp rd rs s
  | .envsample => Sys2Proof.Machine.execEnvsample s

end Sys2Proof.Machine
end

