-- ==== Sys2Proof/Machine/Window.lean ====
section
/-! DEFINITION. The host window (20_memory.md R28 to R33): its address map, `MemRead` and `MemWrite`, the execution of a
word written to CMD (30_encoding.md R47), and what one host event does. -/

namespace Sys2Proof.Machine

/-- A register of the address map (R29). -/
inductive WindowReg where
  | id | ctrl | status | einfo | cmd
  | x (r : Reg)
  | raw (k : BitVec 3)
  | cal (c : Coef)
  | tfine | rdT100 | rdRh10 | rdPa | rdTpint | rdTpext | rdLux
  deriving DecidableEq, Repr

/-- The register at a byte address: none where the address is not a multiple of 4 or is reserved (R29, R30). -/
def windowReg? (addr : WindowAddr) : Option WindowReg :=
  let a := addr.toNat
  if a % 4 ≠ 0 then none
  else if a = 0x000 then some .id
  else if a = 0x004 then some .ctrl
  else if a = 0x008 then some .status
  else if a = 0x00C then some .einfo
  else if a = 0x010 then some .cmd
  else if a < 0x040 then none
  else if a < 0x080 then some (.x (BitVec.ofNat 4 ((a - 0x040) / 4)))
  else if a < 0x0A0 then some (.raw (BitVec.ofNat 3 ((a - 0x080) / 4)))
  else if a < 0x0E8 then (Coef.ofIndex? ((a - 0x0A0) / 4)).map .cal
  else if a < 0x100 then none
  else if a = 0x100 then some .tfine
  else if a = 0x104 then some .rdT100
  else if a = 0x108 then some .rdRh10
  else if a = 0x10C then some .rdPa
  else if a = 0x110 then some .rdTpint
  else if a = 0x114 then some .rdTpext
  else if a = 0x118 then some .rdLux
  else none

/-- The byte address of each register (R29). -/
def WindowReg.addr : WindowReg → WindowAddr
  | .id => 0x000
  | .ctrl => 0x004
  | .status => 0x008
  | .einfo => 0x00C
  | .cmd => 0x010
  | .x r => BitVec.ofNat 9 (0x040 + 4 * r.toNat)
  | .raw k => BitVec.ofNat 9 (0x080 + 4 * k.toNat)
  | .cal c => BitVec.ofNat 9 (0x0A0 + 4 * c.index)
  | .tfine => 0x100
  | .rdT100 => 0x104
  | .rdRh10 => 0x108
  | .rdPa => 0x10C
  | .rdTpint => 0x110
  | .rdTpext => 0x114
  | .rdLux => 0x118

/-- `readonly`: ID, EINFO, TFINE and the six RD registers (R30). -/
def WindowReg.readOnly : WindowReg → Bool
  | .id | .einfo | .tfine | .rdT100 | .rdRh10 | .rdPa | .rdTpint | .rdTpext | .rdLux => true
  | .ctrl | .status | .cmd | .x _ | .raw _ | .cal _ => false

/-- What a read returns (R31); a read has no side effect. -/
def State.readWindow (s : State) : WindowReg → Word
  | .id => Config.idValue
  | .ctrl => 0
  | .status => s.status.toWord
  | .einfo => s.einfo
  | .cmd => 0
  | .x r => s.reg r
  | .raw k => (s.rawByte k).setWidth 32
  | .cal c => wordOf (s.calv c)
  | .tfine => s.tfine
  | .rdT100 => s.rdT100
  | .rdRh10 => s.rdRh10
  | .rdPa => s.rdPa
  | .rdTpint => s.rdTpint
  | .rdTpext => s.rdTpext
  | .rdLux => s.rdLux

/-- The register an access reaches: only a 4-byte access at a multiple of 4 that is not reserved reaches one (R30). -/
def accessReg? (addr : WindowAddr) (n : Nat) : Option WindowReg := if n = 4 then windowReg? addr else none

/-- HOST_ACCESS or CAL_LOCKED by a host access: the information value is the byte address (60_exceptions.md R89). -/
def State.captureAccess (s : State) (e : Cause) (addr : WindowAddr) : State := s.capture e (addr.setWidth 32)

/-- Executing a command word (30_encoding.md R47): a word that fails a check raises ILLEGAL_CMD(w). -/
def executeWord (w : Word) (s : State) : Host.Outcome State Fault Refusal :=
  match decode w with
  | .ok i => exec i s
  | .error _ => .next (s.capture .illegalCmd w)

/-- `MemRead(addr, n)`: the value returned and the state after (R30, R31). -/
def memRead (addr : WindowAddr) (n : Nat) (s : State) : Word × State :=
  match accessReg? addr n with
  | some r => (s.readWindow r, s)
  | none => (0, s.captureAccess .hostAccess addr)

/-- `MemWrite(addr, n, v)` (R30, R32). A CMD write executes its whole command before it completes (R35). -/
def memWrite (addr : WindowAddr) (n : Nat) (v : Word) (s : State) : Host.Outcome State Fault Refusal :=
  match accessReg? addr n with
  | none => .next (s.captureAccess .hostAccess addr)
  | some r =>
    match r with
    | .x i => .next (s.setReg i v)
    | .raw k => .next (s.setRaw k (v.setWidth 8))
    | .cal c => if s.status.cal then .next (s.captureAccess .calLocked addr) else .next (s.writeCal c v)
    | .ctrl => .next (if v.getLsbD 0 then s.resetBlock else s)
    | .status => .next (if v.getLsbD 16 then s.clearException else s)
    | .cmd => executeWord v s
    | .id | .einfo | .tfine | .rdT100 | .rdRh10 | .rdPa | .rdTpint | .rdTpext | .rdLux =>
      .next (s.captureAccess .hostAccess addr)

/-- What one event of the outside does. -/
def serve (e : HostEvent) (s : State) : Host.Outcome State Fault Refusal :=
  match e with
  | .read addr n => .next { (memRead addr n s).2 with readData := some (memRead addr n s).1 }
  | .write addr n v => memWrite addr n v s
  | .resetSignal => .next s.resetBlock

/-- The host's next event, taken off the accesses to come and served. With none to come the block is idle and keeps all
its state (60_exceptions.md R102; DEDUCED, log entry 6; safe). -/
def serveNext (s : State) : Host.Outcome State Fault Refusal :=
  match s.pending with
  | [] => .next s
  | e :: rest => serve e { s with pending := rest }

/-- The host's write of the command word `w` to CMD (R29, 10_state.md R26). -/
def cmdWrite (w : Word) : HostEvent := .write WindowReg.cmd.addr 4 w

/-- The word held in a table row's bits, for the host's CMD write; a value wider than a command word keeps its low 32
bits (30_encoding.md R41: there is one length only). -/
def fetchWord (nbits w : Nat) : Word := BitVec.ofNat 32 (w % 2 ^ nbits)

end Sys2Proof.Machine
end

