-- ==== Sys2Proof/Machine/Step.lean ====
section
/-! DEFINITION. One step of the machine: one host access, with the whole command it starts (20_memory.md R35, R36). -/

namespace Sys2Proof.Machine

/-- One step: the host's next event. A step is never split, so a command is indivisible (20_memory.md R38). -/
def step (s : State) : Host.Outcome State Fault Refusal := serveNext s

/-- `s` with the host's next access a CMD write of the row's word. The block fetches nothing: a command is the data of
its CMD write (10_state.md R13, 20_memory.md R39; log entry 14). -/
def State.withFetchWord (s : State) (nbits w : Nat) : State :=
  { s with pending := cmdWrite (fetchWord nbits w) :: s.pending }

end Sys2Proof.Machine
end

