-- ==== Sys2Proof/Machine/Assembler.lean ====
section
/-! DEFINITION. The assembly syntax of 30_encoding.md R49 and the pseudo-instructions of R50. A line assembles to the
commands the host writes to CMD, in order. What R49 leaves open of the text (blanks, the letters of a number, ranges) is
a DESIGN CHOICE (log entry 13; safe: the block never sees text). -/

namespace Sys2Proof.Machine

/-- The mnemonic of each row of R46. -/
def mnemonic : Op → String
  | .nop => "NOP"
  | .ldi => "LDI"
  | .ldih => "LDIH"
  | .getr => "GETR"
  | .setraw => "SETRAW"
  | .wcal => "WCAL"
  | .calseal => "CALSEAL"
  | .calopen => "CALOPEN"
  | .unpk20 => "UNPK20"
  | .unpk16 => "UNPK16"
  | .unpkh45 => "UNPKH45"
  | .fld14 => "FLD14"
  | .lexp => "LEXP"
  | .lmant => "LMANT"
  | .tpdec => "TPDEC"
  | .t32t10 => "T32T10"
  | .c10f10 => "C10F10"
  | .luxdec => "LUXDEC"
  | .c100f10 => "C100F10"
  | .painhg => "PAINHG"
  | .tpsample => "TPSAMPLE"
  | .luxsample => "LUXSAMPLE"
  | .compt => "COMPT"
  | .comph => "COMPH"
  | .compp => "COMPP"
  | .envsample => "ENVSAMPLE"

/-- The coefficient names of R15 in the order of `k`. -/
def coefNames : List String :=
  ["T1", "T2", "T3", "P1", "P2", "P3", "P4", "P5", "P6", "P7", "P8", "P9", "H1", "H2", "H3", "H4", "H5", "H6"]

/-- The selector names of R45 in the order of `sel`. -/
def selectorNames : List String :=
  ["TFINE", "RD_T100", "RD_RH10", "RD_PA", "RD_TPINT", "RD_TPEXT", "RD_LUX", "STATUS"]

/-- The spellings `x0` to `x15` of the registers (R49). -/
def regNames : List String :=
  ["x0", "x1", "x2", "x3", "x4", "x5", "x6", "x7", "x8", "x9", "x10", "x11", "x12", "x13", "x14", "x15"]

/-- `LI32 xd, imm32`: LDI of the low half, then LDIH of the high half, always two commands (R50). -/
def pseudoLi32 (rd : Reg) (imm : Word) : List Instr :=
  [.ldi rd (imm.extractLsb' 0 16), .ldih rd (imm.extractLsb' 16 16)]

/-- `CLR xd` (R50). -/
def pseudoClr (rd : Reg) : List Instr := [.ldi rd 0]

/-- `TPREAD xd, xs` (R50). -/
def pseudoTpread (rd rs : Reg) : List Instr := [.tpdec rd rs]

/-- A blank between the parts of a line. -/
def isBlank (c : Char) : Bool := c == ' ' || c == '\t'

/-- A text without the blanks around it. -/
def trimBlanks (l : List Char) : List Char := ((l.dropWhile isBlank).reverse.dropWhile isBlank).reverse

/-- A text cut at every comma. -/
def splitCommas : List Char → List (List Char)
  | [] => [[]]
  | c :: l =>
    match splitCommas l with
    | [] => [[c]]
    | part :: parts => if c == ',' then [] :: part :: parts else (c :: part) :: parts

/-- The value of a digit in a base. -/
def digitValue? (base : Nat) (c : Char) : Option Nat :=
  let d :=
    if '0' ≤ c ∧ c ≤ '9' then c.toNat - '0'.toNat
    else if 'a' ≤ c ∧ c ≤ 'f' then c.toNat - 'a'.toNat + 10
    else if 'A' ≤ c ∧ c ≤ 'F' then c.toNat - 'A'.toNat + 10
    else base
  if d < base then some d else none

/-- The value of a row of digits, after the value `acc` of the digits before it. -/
def digitsValue? (base acc : Nat) : List Char → Option Nat
  | [] => some acc
  | c :: l =>
    match digitValue? base c with
    | none => none
    | some d => digitsValue? base (acc * base + d) l

/-- A number: decimal, or hexadecimal after `0x` (R49). -/
def number? : List Char → Option Nat
  | [] => none
  | ['0', 'x'] => none
  | '0' :: 'x' :: l => digitsValue? 16 0 l
  | l => digitsValue? 10 0 l

/-- A number below `bound`. -/
def numberBelow? (bound : Nat) (l : List Char) : Option Nat :=
  match number? l with
  | some v => if v < bound then some v else none
  | none => none

/-- The position of a name in a list of names. -/
def nameIndex? (names : List String) (l : List Char) : Option Nat := names.findIdx? fun n => n.toList == l

/-- A register operand. -/
def regOperand? (l : List Char) : Option Reg := (nameIndex? regNames l).map (BitVec.ofNat 4)

/-- The coefficient operand of WCAL: a name, or the number `k` (R49). -/
def coefOperand? (l : List Char) : Option (BitVec 5) :=
  match nameIndex? coefNames l with
  | some k => some (BitVec.ofNat 5 k)
  | none => (numberBelow? 18 l).map (BitVec.ofNat 5)

/-- The operands `rd, rs` (or `rs1, rs2`). -/
def twoRegs (f : Reg → Reg → Instr) : List (List Char) → Option Instr
  | [a, b] => do return f (← regOperand? a) (← regOperand? b)
  | _ => none

/-- The operand `rs`. -/
def oneReg (f : Reg → Instr) : List (List Char) → Option Instr
  | [a] => do return f (← regOperand? a)
  | _ => none

/-- No operand. -/
def noOperand (i : Instr) : List (List Char) → Option Instr
  | [] => some i
  | _ => none

/-- The operands `rd, imm16`. -/
def regImm (f : Reg → BitVec 16 → Instr) : List (List Char) → Option Instr
  | [a, b] => do return f (← regOperand? a) (BitVec.ofNat 16 (← numberBelow? (2 ^ 16) b))
  | _ => none

/-- The operands of GETR: `rd` and a selector name. -/
def regSelector : List (List Char) → Option Instr
  | [a, b] => do return .getr (← regOperand? a) (BitVec.ofNat 4 (← nameIndex? selectorNames b))
  | _ => none

/-- The operands of SETRAW: `k, rs`. -/
def rawReg : List (List Char) → Option Instr
  | [a, b] => do return .setraw (BitVec.ofNat 3 (← numberBelow? 8 a)) (← regOperand? b)
  | _ => none

/-- The operands of WCAL: `k, rs`. -/
def coefReg : List (List Char) → Option Instr
  | [a, b] => do return .wcal (← coefOperand? a) (← regOperand? b)
  | _ => none

/-- A command from its mnemonic and operands, destination first (R49). -/
def assembleOp : Op → List (List Char) → Option Instr
  | .nop => noOperand .nop
  | .ldi => regImm .ldi
  | .ldih => regImm .ldih
  | .getr => regSelector
  | .setraw => rawReg
  | .wcal => coefReg
  | .calseal => noOperand .calseal
  | .calopen => noOperand .calopen
  | .unpk20 => twoRegs .unpk20
  | .unpk16 => twoRegs .unpk16
  | .unpkh45 => oneReg .unpkh45
  | .fld14 => twoRegs .fld14
  | .lexp => twoRegs .lexp
  | .lmant => twoRegs .lmant
  | .tpdec => twoRegs .tpdec
  | .t32t10 => twoRegs .t32t10
  | .c10f10 => twoRegs .c10f10
  | .luxdec => twoRegs .luxdec
  | .c100f10 => twoRegs .c100f10
  | .painhg => twoRegs .painhg
  | .tpsample => twoRegs .tpsample
  | .luxsample => oneReg .luxsample
  | .compt => twoRegs .compt
  | .comph => twoRegs .comph
  | .compp => twoRegs .compp
  | .envsample => noOperand .envsample

/-- A pseudo-instruction from its name and operands (R50). -/
def assemblePseudo (name : List Char) (ops : List (List Char)) : Option (List Instr) :=
  if name == "LI32".toList then
    match ops with
    | [a, b] => do return pseudoLi32 (← regOperand? a) (BitVec.ofNat 32 (← numberBelow? (2 ^ 32) b))
    | _ => none
  else if name == "CLR".toList then
    match ops with
    | [a] => do return pseudoClr (← regOperand? a)
    | _ => none
  else if name == "TPREAD".toList then
    match ops with
    | [a, b] => do return pseudoTpread (← regOperand? a) (← regOperand? b)
    | _ => none
  else none

/-- The part of a line after its label, if it has one: a label is only a comment on a position (R49). -/
def dropLabel (l : List Char) : List Char := if l.contains ':' then (l.dropWhile (· != ':')).drop 1 else l

/-- The commands of one line `[label:] MNEMONIC operands [; comment]`, mnemonics case-insensitive (R49, R50); none where
the line has not that form. -/
def assembleLine? (line : String) : Option (List Instr) :=
  let body := trimBlanks (dropLabel (line.toList.takeWhile (· != ';')))
  let name := (body.takeWhile fun c => !isBlank c).map Char.toUpper
  let rest := trimBlanks (body.dropWhile fun c => !isBlank c)
  let ops := if rest.isEmpty then [] else (splitCommas rest).map trimBlanks
  match Op.all.find? fun o => (mnemonic o).toList == name with
  | some o => (assembleOp o ops).map fun i => [i]
  | none => assemblePseudo name ops

end Sys2Proof.Machine
end

