-- ==== Sys2Proof/Safety.lean ====
section
/-! DEFINITION. The terms in which claims about WSCF-1 are stated: frames, the rows of the encoding table, the host's
sequence of accesses, the exception record, and the invariant of the machine. -/

namespace Sys2Proof.Machine

/-- `t` is `s` with `v` in X register `rd` and nothing else changed: every other X register, and every other field of
the state (the burst buffer, the trim file, TFINE, the readings, STATUS, EINFO and the host's port). -/
def WritesReg (s t : State) (rd : Reg) (v : Word) : Prop :=
  t.reg rd = v ∧ (∀ r, r ≠ rd → t.reg r = s.reg r) ∧ t = { s with x := t.x }

/-- `t` is `s` with only X register `rd` changed: nothing else, as in `WritesReg`. -/
def OnlyReg (s t : State) (rd : Reg) : Prop := WritesReg s t rd (t.reg rd)

/-- `t` is `s` with coefficient `c` holding the low bits of `v`, at the width and with the reading of 10_state.md R15's
table (R16, R17), under both values of `H45_SIGNED`; no other coefficient and no other field changed. -/
def WritesCoef (s t : State) (c : Coef) (v : Word) (width : Nat) (signed : Bool → Bool) : Prop :=
  (∀ b, t.cal.value b c = if signed b then (v.setWidth width).toInt else ((v.setWidth width).toNat : Int)) ∧
  (∀ b c', c' ≠ c → t.cal.value b c' = s.cal.value b c') ∧ t = { s with cal := t.cal }

/-- The state after ILLEGAL_CMD on the command word `w` (60_exceptions.md R89, R92). -/
def illegal (w : Word) (s : State) : Host.Outcome State Fault Refusal := .next (s.capture .illegalCmd w)

/-! A row of the encoding table (30_encoding.md R42, R46, R47): the word of the command, and what executing any word with
the row's OP does: the command where every reserved bit is 0, ILLEGAL_CMD where one is 1. -/

/-- A row of format N. -/
def RowN (op : BitVec 8) (i : Instr) : Prop :=
  encode i = op ++ 0#4 ++ 0#4 ++ 0#16 ∧
  ∀ w s, w.extractLsb' 24 8 = op →
    executeWord w s =
      if w.extractLsb' 20 4 = 0 ∧ w.extractLsb' 16 4 = 0 ∧ w.extractLsb' 0 16 = 0 then exec i s else illegal w s

/-- A row of format I. -/
def RowI (op : BitVec 8) (f : Reg → BitVec 16 → Instr) : Prop :=
  (∀ rd imm, encode (f rd imm) = op ++ rd ++ 0#4 ++ imm) ∧
  ∀ w s, w.extractLsb' 24 8 = op →
    executeWord w s = if w.extractLsb' 16 4 = 0 then exec (f (w.extractLsb' 20 4) (w.extractLsb' 0 16)) s else illegal w s

/-- A row of format R. -/
def RowR (op : BitVec 8) (f : Reg → Reg → Instr) : Prop :=
  (∀ rd rs, encode (f rd rs) = op ++ rd ++ rs ++ 0#16) ∧
  ∀ w s, w.extractLsb' 24 8 = op →
    executeWord w s = if w.extractLsb' 0 16 = 0 then exec (f (w.extractLsb' 20 4) (w.extractLsb' 16 4)) s else illegal w s

/-- A row of format G. -/
def RowG (op : BitVec 8) (f : Reg → BitVec 4 → Instr) : Prop :=
  (∀ rd sel, encode (f rd sel) = op ++ rd ++ 0#4 ++ 0#12 ++ sel) ∧
  ∀ w s, w.extractLsb' 24 8 = op →
    executeWord w s =
      if w.extractLsb' 16 4 = 0 ∧ w.extractLsb' 4 12 = 0 then exec (f (w.extractLsb' 20 4) (w.extractLsb' 0 4)) s
      else illegal w s

/-- A row of format S. -/
def RowS (op : BitVec 8) (f : BitVec 3 → Reg → Instr) : Prop :=
  (∀ k rs, encode (f k rs) = op ++ 0#4 ++ rs ++ 0#13 ++ k) ∧
  ∀ w s, w.extractLsb' 24 8 = op →
    executeWord w s =
      if w.extractLsb' 20 4 = 0 ∧ w.extractLsb' 3 13 = 0 then exec (f (w.extractLsb' 0 3) (w.extractLsb' 16 4)) s
      else illegal w s

/-- A row of format K. -/
def RowK (op : BitVec 8) (f : BitVec 5 → Reg → Instr) : Prop :=
  (∀ k rs, encode (f k rs) = op ++ 0#4 ++ rs ++ 0#11 ++ k) ∧
  ∀ w s, w.extractLsb' 24 8 = op →
    executeWord w s =
      if w.extractLsb' 20 4 = 0 ∧ w.extractLsb' 5 11 = 0 then exec (f (w.extractLsb' 0 5) (w.extractLsb' 16 4)) s
      else illegal w s

/-- A row of format U. -/
def RowU (op : BitVec 8) (f : Reg → Instr) : Prop :=
  (∀ rs, encode (f rs) = op ++ 0#4 ++ rs ++ 0#16) ∧
  ∀ w s, w.extractLsb' 24 8 = op →
    executeWord w s =
      if w.extractLsb' 20 4 = 0 ∧ w.extractLsb' 0 16 = 0 then exec (f (w.extractLsb' 16 4)) s else illegal w s

/-- A row of format P. -/
def RowP (op : BitVec 8) (f : Reg → Reg → Instr) : Prop :=
  (∀ rs1 rs2, encode (f rs1 rs2) = op ++ 0#4 ++ rs1 ++ rs2 ++ 0#12) ∧
  ∀ w s, w.extractLsb' 24 8 = op →
    executeWord w s =
      if w.extractLsb' 20 4 = 0 ∧ w.extractLsb' 0 12 = 0 then exec (f (w.extractLsb' 16 4) (w.extractLsb' 12 4)) s
      else illegal w s

/-- The access that the next step serves is a CMD write of a word that decodes to `i` (10_state.md R26, 30_encoding.md
R47). -/
def Serves (s : State) (i : Instr) : Prop :=
  ∃ (w : Word) (rest : List HostEvent), s.pending = .write 0x010#9 4 w :: rest ∧ decode w = .ok i

/-- The access that the next step serves resets the block: the platform's reset signal, or a CTRL write with bit 0 set
(70_reset_and_hazards.md R103). -/
def ServesReset (s : State) : Prop :=
  ∃ rest : List HostEvent, s.pending = .resetSignal :: rest ∨
    ∃ v : Word, s.pending = .write 0x004#9 4 v :: rest ∧ v.getLsbD 0 = true

/-- The host's accesses served one by one in their order (20_memory.md R36). -/
def serveAll : List HostEvent → State → Host.Outcome State Fault Refusal
  | [], s => .next s
  | e :: es, s =>
    match serve e s with
    | .next t => serveAll es t
    | .fault r => .fault r
    | .refused r => .refused r

/-- The exception record: ERR, EOVF, ECODE and EINFO (60_exceptions.md R92, R94). -/
structure ErrRecord where
  err : Bool
  eovf : Bool
  ecode : BitVec 4
  einfo : Word
  deriving DecidableEq, Repr

/-- The exception record a state holds. -/
def State.errRecord (s : State) : ErrRecord :=
  { err := s.status.err, eovf := s.status.eovf, ecode := s.status.ecode, einfo := s.einfo }

/-- A state with another exception record and nothing else changed. -/
def State.withRecord (s : State) (r : ErrRecord) : State :=
  { s with status := { s.status with err := r.err, eovf := r.eovf, ecode := r.ecode }, einfo := r.einfo }

/-- The exceptions a command can raise beside ILLEGAL_CMD (60_exceptions.md R89). -/
def Raises : Cause → Instr → Prop
  | .illegalCmd, i => i.wellFormed = false
  | .nocal, i => (∃ rd rs, i = .compt rd rs ∨ i = .comph rd rs ∨ i = .compp rd rs) ∨ i = .envsample
  | .notfine, i => ∃ rd rs, i = .comph rd rs ∨ i = .compp rd rs
  | .calLocked, i => (∃ k rs, i = .wcal k rs) ∨ ∃ rs, i = .unpkh45 rs
  | .hostAccess, _ => False

/-- Width of a coefficient, from the table of 10_state.md R15. -/
def Coef.width : Coef → Nat
  | .h1 | .h3 | .h6 => 8
  | .h4 | .h5 => 12
  | .t1 | .t2 | .t3 | .p1 | .p2 | .p3 | .p4 | .p5 | .p6 | .p7 | .p8 | .p9 | .h2 => 16

/-- Whether a coefficient's reading is signed, from the table of 10_state.md R15, under `H45_SIGNED`. -/
def Coef.signed (h45Signed : Bool) : Coef → Bool
  | .t1 | .p1 | .h1 | .h3 => false
  | .h4 | .h5 => h45Signed
  | .t2 | .t3 | .p2 | .p3 | .p4 | .p5 | .p6 | .p7 | .p8 | .p9 | .h2 | .h6 => true

/-- The reserved rows of 20_memory.md R29. -/
def reservedAddr (a : Nat) : Prop := (0x014 ≤ a ∧ a < 0x040) ∨ (0x0E8 ≤ a ∧ a < 0x100) ∨ 0x11C ≤ a

/-- The read-only registers' addresses: ID, EINFO, TFINE and the six RD registers (20_memory.md R29, R30). -/
def readOnlyAddr (a : Nat) : Prop := a = 0x000 ∨ a = 0x00C ∨ (0x100 ≤ a ∧ a < 0x11C)

/-- The window registers a well-formed command may change, exceptions included (the family files' rules R54 to R88). -/
def touches : Instr → WindowReg → Bool
  | .nop, _ => false
  | .ldi rd _, r | .ldih rd _, r | .getr rd _, r | .unpk20 rd _, r | .unpk16 rd _, r | .fld14 rd _, r | .lexp rd _, r
  | .lmant rd _, r | .tpdec rd _, r | .t32t10 rd _, r | .c10f10 rd _, r | .luxdec rd _, r | .c100f10 rd _, r
  | .painhg rd _, r => r == .x rd
  | .setraw k _, r => r == .raw k
  | .wcal k _, r => r == .status || r == .einfo || (Coef.ofIndex? k.toNat).any fun c => r == .cal c
  | .calseal, r | .calopen, r => r == .status
  | .unpkh45 _, r => r == .status || r == .einfo || r == .cal .h4 || r == .cal .h5
  | .tpsample _ _, r => r == .status || r == .rdTpint || r == .rdTpext
  | .luxsample _, r => r == .status || r == .rdLux
  | .compt rd _, r => r == .status || r == .einfo || r == .tfine || r == .x rd
  | .comph rd _, r | .compp rd _, r => r == .status || r == .einfo || r == .x rd
  | .envsample, r => r == .status || r == .einfo || r == .tfine || r == .rdT100 || r == .rdRh10 || r == .rdPa

/-- What EINFO may hold for a recorded cause (60_exceptions.md R89): the illegal word, a compensation command's word, a
trim-writing command's word or a trim register's address, or a window address. -/
def infoFits (code : BitVec 4) (info : Word) : Bool :=
  match code.toNat with
  | 1 => match decode info with
    | .ok _ => false
    | .error _ => true
  | 2 => match decode info with
    | .ok (.compt _ _) | .ok (.comph _ _) | .ok (.compp _ _) | .ok .envsample => true
    | _ => false
  | 3 => match decode info with
    | .ok (.comph _ _) | .ok (.compp _ _) => true
    | _ => false
  | 4 => match decode info with
    | .ok (.wcal _ _) | .ok (.unpkh45 _) => true
    | _ => 0x0A0 ≤ info.toNat && info.toNat < 0x0E8
  | 5 => info.toNat < 512
  | _ => false

/-- The invariant of the machine. It joins the seal rule (41_control.md R62), the clamp flags' exclusion (10_state.md
R24), the exception record's form (10_state.md R22, R25, 60_exceptions.md R89), the readings' default until their valid
bit is set, and their ranges (10_state.md R19, 43_scale.md R70, R73, 44_compensation.md R81, R87). -/
structure StateInv (s : State) : Prop where
  tfv_needs_cal : s.status.tfv = true → s.status.cal = true
  one_clamp : ¬(s.status.hclo = true ∧ s.status.hchi = true)
  no_record : s.status.err = false → s.status.eovf = false ∧ s.status.ecode = 0 ∧ s.einfo = 0
  record : s.status.err = true → infoFits s.status.ecode s.einfo = true
  env_default : s.status.envv = false → s.rdT100 = 0 ∧ s.rdRh10 = 0 ∧ s.rdPa = 0
  tp_default : s.status.tpv = false → s.rdTpint = 0 ∧ s.rdTpext = 0
  lux_default : s.status.luxv = false → s.rdLux = 0
  rh10_range : s.rdRh10.toNat ≤ 1003
  pa_range : s.rdPa.toNat < 2 ^ 24
  tpint_range : -2560 ≤ s.rdTpint.toInt ∧ s.rdTpint.toInt ≤ 2560
  tpext_range : -2560 ≤ s.rdTpext.toInt ∧ s.rdTpext.toInt ≤ 2560
  lux_range : s.rdLux.toNat ≤ 1341850

end Sys2Proof.Machine
end

