-- ==== Sys2Proof/Certificates/Slice0/Obligations.lean ====
section
/-! DEFINITION. The statements about WSCF-1 for the provers, from the numbered rules of spec/. A state with the host's
next access in front is written `{ s with pending := e :: rest }`; the host-port fields `pending` and `readData` are the
model's own (log entry 1). -/

open Sys2Proof Sys2Proof.Machine

/-! ## Encoding (30_encoding.md) -/

/-- Decoding the word of a well-formed command gives the command back (R42, R46, R47). -/
def Obligations.DecodeOfEncodeIsTheCommand : Prop :=
  ∀ i : Instr, i.wellFormed = true → decode (encode i) = .ok i

/-- A word that decodes is the word of its command, and the command is well-formed (R47, R48). -/
def Obligations.EncodeOfDecodeIsTheWord : Prop :=
  ∀ (w : Word) (i : Instr), decode w = .ok i → encode i = w ∧ i.wellFormed = true

/-- Every word is the word of exactly one well-formed command and runs it, or is no command's word and raises
ILLEGAL_CMD (R47). -/
def Obligations.EveryWordIsOneCommandOrIllegal : Prop :=
  ∀ (w : Word) (s : State),
    (∃ i : Instr, i.wellFormed = true ∧ encode i = w ∧ (∀ j : Instr, j.wellFormed = true → encode j = w → j = i) ∧
      executeWord w s = exec i s) ∨
    ((∀ i : Instr, i.wellFormed = true → encode i ≠ w) ∧ executeWord w s = illegal w s)

/-- R48: unassigned OP values and reserved bits are illegal; word 0 is NOP; the word of all ones is illegal. -/
def Obligations.UnassignedOpAndReservedBitsAreIllegal : Prop :=
  (∀ (w : Word) (s : State),
    ((0x08 ≤ (w.extractLsb' 24 8).toNat ∧ (w.extractLsb' 24 8).toNat ≤ 0x0F) ∨
     (0x16 ≤ (w.extractLsb' 24 8).toNat ∧ (w.extractLsb' 24 8).toNat ≤ 0x1F) ∨
     (0x28 ≤ (w.extractLsb' 24 8).toNat ∧ (w.extractLsb' 24 8).toNat ≤ 0x2F) ∨
     0x34 ≤ (w.extractLsb' 24 8).toNat) → executeWord w s = illegal w s) ∧
  (∀ (w : Word) (s : State) (o : Op) (b : Nat), w.extractLsb' 24 8 = o.code → b < 24 →
    o.format.mask.getLsbD b = true → w.getLsbD b = true → executeWord w s = illegal w s) ∧
  (∀ s : State, executeWord 0x00000000#32 s = exec .nop s ∧ exec .nop s = .next s) ∧
  (∀ s : State, executeWord 0xFFFFFFFF#32 s = illegal 0xFFFFFFFF#32 s)

/-- A few words written out from R42, R46 and R49 decode to their commands, and no two rows share an OP value. -/
def Obligations.SampleWordsDecodeAndRowsDiffer : Prop :=
  decode 0x00000000#32 = .ok .nop ∧ decode 0x01100C80#32 = .ok (.ldi 1 0x0C80#16) ∧
  decode 0x03300004#32 = .ok (.getr 3 4) ∧ decode 0x04020003#32 = .ok (.setraw 3 2) ∧
  decode 0x05040001#32 = .ok (.wcal 1 4) ∧ decode 0x12050000#32 = .ok (.unpkh45 5) ∧
  decode 0x22430000#32 = .ok (.c10f10 4 3) ∧ decode 0x26012000#32 = .ok (.tpsample 1 2) ∧
  decode 0x33000000#32 = .ok .envsample ∧
  Op.all.length = 26 ∧ Op.all.Pairwise fun a b => a.code ≠ b.code

/-! ## The machine's step -/

/-- A step whose host access is a CMD write (address 0x010) runs the command its word decodes to, on the state without
that access; a word that does not decode raises ILLEGAL_CMD (R26, R32, R47). Taking the access off `pending` is the
model's own (log entry 1). -/
def Obligations.StepRunsTheCommandWritten : Prop :=
  ∀ (s : State) (w : Word) (rest : List HostEvent),
    (∀ i : Instr, decode w = .ok i →
      step { s with pending := .write 0x010#9 4 w :: rest } = exec i { s with pending := rest }) ∧
    (∀ e : DecodeError, decode w = .error e →
      step { s with pending := .write 0x010#9 4 w :: rest } = illegal w { s with pending := rest })

/-- With no access to come the block keeps all its state, and a row's word placed as the host's next CMD write is what
the next step executes (the model's own, log entries 6 and 14; R13, R102). -/
def Obligations.IdleBlockWaitsForTheNextWord : Prop :=
  (∀ s : State, s.pending = [] → step s = .next s) ∧
  ∀ (s : State) (w : Nat), w < 2 ^ 32 → step (s.withFetchWord 32 w) = executeWord (BitVec.ofNat 32 w) s

/-- No step stops: every host access and every command completes (R110, R92). -/
def Obligations.EveryStepAnswersNext : Prop :=
  (∀ s : State, ∃ t, step s = .next t) ∧ ∀ (i : Instr) (s : State), ∃ t, exec i s = .next t

/-- The state after a sequence of host accesses is that of serving them one by one in their order (R36). The list of
accesses to come is the model's own (log entry 1), and a reset among them keeps it (log entry 8). -/
def Obligations.HostAccessesApplyInOrder : Prop :=
  ∀ (es rest : List HostEvent) (s : State),
    Sys2Proof.core.run es.length { s with pending := es ++ rest } = serveAll es { s with pending := rest }

/-! ## Invariants and reset -/

/-- The invariant of Safety.lean holds right after reset. -/
def Obligations.InvariantHoldsAtReset : Prop := StateInv State.reset

/-- Every step keeps the invariant of Safety.lean: the seal rule, the exclusive clamp flags, the form of the exception
record, the readings' defaults and their ranges (R19, R22, R24, R25, R62, R70, R73, R81, R87, R89). -/
def Obligations.StepKeepsInvariant : Prop :=
  ∀ s t : State, StateInv s → step s = .next t → StateInv t

/-- R62: in every state that a host's accesses reach from reset, TFV = 1 implies CAL = 1, and a step from any state keeps
that implication. A step that sets TFV serves a CMD write of COMPT or ENVSAMPLE with CAL = 1, and a step that clears CAL
serves CALOPEN or a reset and leaves TFV clear. -/
def Obligations.TfvImpliesCalInEveryReachableState : Prop :=
  (∀ (es : List HostEvent) (n : Nat) (t : State),
    Sys2Proof.core.run n { State.reset with pending := es } = .next t → t.status.tfv = true → t.status.cal = true) ∧
  (∀ s t : State, step s = .next t → (s.status.tfv = true → s.status.cal = true) →
    t.status.tfv = true → t.status.cal = true) ∧
  (∀ s t : State, step s = .next t → s.status.tfv = false → t.status.tfv = true →
    s.status.cal = true ∧ ((∃ rd rs, Serves s (.compt rd rs)) ∨ Serves s .envsample)) ∧
  ∀ s t : State, step s = .next t → s.status.cal = true → t.status.cal = false →
    (Serves s .calopen ∨ ServesReset s) ∧ t.status.tfv = false

/-- R103, R104: the reset signal and a CTRL write with bit 0 set both set every piece of the block's state to its reset
value; `State.reset` holds the same values. -/
def Obligations.ResetSetsEveryRegister : Prop :=
  let isReset (t : State) : Prop :=
    (∀ r, t.reg r = 0) ∧ (∀ k, t.rawByte k = 0) ∧ (∀ b c, t.cal.value b c = 0) ∧ t.tfine = 0 ∧
    t.rdT100 = 0 ∧ t.rdRh10 = 0 ∧ t.rdPa = 0 ∧ t.rdTpint = 0 ∧ t.rdTpext = 0 ∧ t.rdLux = 0 ∧
    t.status.toWord = 0 ∧ t.einfo = 0 ∧ t.readWindow .ctrl = 0 ∧ t.readWindow .id = 0x57534346#32
  isReset State.reset ∧
  ∀ (s : State) (rest : List HostEvent),
    (∃ t, step { s with pending := .resetSignal :: rest } = .next t ∧ isReset t) ∧
    ∀ v : Word, v.getLsbD 0 = true → ∃ t, step { s with pending := .write 0x004#9 4 v :: rest } = .next t ∧ isReset t

/-! ## Control and data movement (41_control.md) -/

/-- R54: NOP does nothing. -/
def Obligations.NopDoesNothing : Prop :=
  RowN 0x00#8 .nop ∧ ∀ s : State, exec .nop s = .next s

/-- R55: LDI writes the zero-extended immediate. -/
def Obligations.LdiWritesTheImmediate : Prop :=
  RowI 0x01#8 .ldi ∧
  ∀ (rd : Reg) (imm : BitVec 16) (s : State), ∃ t, exec (.ldi rd imm) s = .next t ∧ WritesReg s t rd (0#16 ++ imm)

/-- R56: LDIH writes the immediate above the old bits 15:0. -/
def Obligations.LdihKeepsTheLowHalf : Prop :=
  RowI 0x02#8 .ldih ∧
  ∀ (rd : Reg) (imm : BitVec 16) (s : State), ∃ t, exec (.ldih rd imm) s = .next t ∧
    WritesReg s t rd (imm ++ (s.reg rd).extractLsb' 0 16)

/-- R57: GETR copies the selected register whole, valid or not, and clears nothing; selectors 8 to 15 are illegal. -/
def Obligations.GetrCopiesTheSelectedRegister : Prop :=
  RowG 0x03#8 .getr ∧
  (∀ (rd : Reg) (sel : BitVec 4) (s : State), sel.toNat ≤ 7 → ∃ t, exec (.getr rd sel) s = .next t ∧
    WritesReg s t rd ([s.tfine, s.rdT100, s.rdRh10, s.rdPa, s.rdTpint, s.rdTpext, s.rdLux, s.status.toWord].getD
      sel.toNat 0)) ∧
  (∀ (rd : Reg) (sel : BitVec 4) (s : State), 8 ≤ sel.toNat →
    exec (.getr rd sel) s = illegal (encode (.getr rd sel)) s)

/-- R58: SETRAW writes the low byte of `x[rs]` to one burst buffer byte and changes nothing else. -/
def Obligations.SetrawWritesOneByte : Prop :=
  RowS 0x04#8 .setraw ∧
  ∀ (k : BitVec 3) (rs : Reg) (s : State), ∃ t, exec (.setraw k rs) s = .next t ∧
    t.rawByte k = (s.reg rs).extractLsb' 0 8 ∧ (∀ k', k' ≠ k → t.rawByte k' = s.rawByte k') ∧ t = { s with raw := t.raw }

/-- R59: WCAL writes one coefficient at its width while the trim file is open, raises CAL_LOCKED while it is sealed, and
ILLEGAL_CMD for an index over 17. -/
def Obligations.WcalWritesOneCoefficient : Prop :=
  RowK 0x05#8 .wcal ∧
  (∀ (c : Coef) (rs : Reg) (s : State), s.status.cal = false →
    ∃ t, exec (.wcal (BitVec.ofNat 5 c.index) rs) s = .next t ∧
      WritesCoef s t c (s.reg rs) c.width fun b => c.signed b) ∧
  (∀ (k : BitVec 5) (rs : Reg) (s : State), k.toNat ≤ 17 → s.status.cal = true →
    exec (.wcal k rs) s = .next (s.capture .calLocked (encode (.wcal k rs)))) ∧
  (∀ (k : BitVec 5) (rs : Reg) (s : State), 18 ≤ k.toNat → exec (.wcal k rs) s = illegal (encode (.wcal k rs)) s)

/-- R60, R61: CALSEAL sets CAL only; CALOPEN clears CAL and TFV only. -/
def Obligations.CalsealAndCalopenChangeOnlyTheSeal : Prop :=
  RowN 0x06#8 .calseal ∧ RowN 0x07#8 .calopen ∧
  ∀ s : State,
    exec .calseal s = .next { s with status := { s.status with cal := true } } ∧
    exec .calopen s = .next { s with status := { s.status with cal := false, tfv := false } }

/-! ## Unpack and extract (42_unpack.md) -/

/-- R63: UNPK20 assembles three bytes, MSB first, dropping the low nibble of the third. -/
def Obligations.Unpk20AssemblesThreeBytes : Prop :=
  RowR 0x10#8 .unpk20 ∧
  ∀ (rd rs : Reg) (s : State), ∃ t, exec (.unpk20 rd rs) s = .next t ∧ OnlyReg s t rd ∧
    t.reg rd = 0#12 ++ (s.reg rs).extractLsb' 4 20 ∧
    (t.reg rd).toNat = ((s.reg rs).extractLsb' 16 8).toNat * 2 ^ 12 + ((s.reg rs).extractLsb' 8 8).toNat * 2 ^ 4 +
      ((s.reg rs).extractLsb' 0 8).toNat / 2 ^ 4

/-- R64: UNPK16 assembles two bytes, MSB first, never sign-extended. -/
def Obligations.Unpk16AssemblesTwoBytes : Prop :=
  RowR 0x11#8 .unpk16 ∧
  ∀ (rd rs : Reg) (s : State), ∃ t, exec (.unpk16 rd rs) s = .next t ∧ OnlyReg s t rd ∧
    t.reg rd = 0#16 ++ (s.reg rs).extractLsb' 0 16 ∧
    (t.reg rd).toNat = ((s.reg rs).extractLsb' 8 8).toNat * 2 ^ 8 + ((s.reg rs).extractLsb' 0 8).toNat

/-- R65: UNPKH45 writes H4 and H5 from their packed bytes while the trim file is open, and raises CAL_LOCKED while it is
sealed. -/
def Obligations.Unpkh45UnpacksH4AndH5 : Prop :=
  RowU 0x12#8 .unpkh45 ∧
  (∀ (rs : Reg) (s : State), s.status.cal = false → ∃ t, exec (.unpkh45 rs) s = .next t ∧
    t.cal.h4.toNat = ((s.reg rs).extractLsb' 24 8).toNat * 2 ^ 4 + ((s.reg rs).extractLsb' 16 8).toNat % 2 ^ 4 ∧
    t.cal.h5.toNat = ((s.reg rs).extractLsb' 8 8).toNat / 2 ^ 4 + ((s.reg rs).extractLsb' 0 8).toNat * 2 ^ 4 ∧
    t = { s with cal := { s.cal with h4 := t.cal.h4, h5 := t.cal.h5 } }) ∧
  (∀ (rs : Reg) (s : State), s.status.cal = true →
    exec (.unpkh45 rs) s = .next (s.capture .calLocked (encode (.unpkh45 rs))))

/-- R66: FLD14 gives the signed 14-bit field, the arithmetic shift of the signed 16-bit word by 2. -/
def Obligations.Fld14ExtractsTheSignedField : Prop :=
  RowR 0x13#8 .fld14 ∧
  ∀ (rd rs : Reg) (s : State), ∃ t, exec (.fld14 rd rs) s = .next t ∧ OnlyReg s t rd ∧
    (t.reg rd).toInt = ((s.reg rs).extractLsb' 0 16).toInt / 4 ∧
    (t.reg rd).toInt = ((s.reg rs).extractLsb' 2 14).toInt

/-- R67, R68: LEXP and LMANT give bits 15:12 and bits 11:0, unsigned. -/
def Obligations.LexpAndLmantExtractTheirFields : Prop :=
  RowR 0x14#8 .lexp ∧ RowR 0x15#8 .lmant ∧
  (∀ (rd rs : Reg) (s : State), ∃ t, exec (.lexp rd rs) s = .next t ∧ OnlyReg s t rd ∧
    (t.reg rd).toNat = (s.reg rs).toNat % 2 ^ 16 / 2 ^ 12) ∧
  (∀ (rd rs : Reg) (s : State), ∃ t, exec (.lmant rd rs) s = .next t ∧ OnlyReg s t rd ∧
    (t.reg rd).toNat = (s.reg rs).toNat % 2 ^ 12)

/-! ## Linear scale (43_scale.md) -/

/-- R70: TPDEC decodes a thermopile word to tenths, never wrapping, in `[-2560, 2560]`. -/
def Obligations.TpdecDecodesToTenths : Prop :=
  RowR 0x20#8 .tpdec ∧
  ∀ (rd rs : Reg) (s : State), ∃ t, exec (.tpdec rd rs) s = .next t ∧ OnlyReg s t rd ∧
    (t.reg rd).toInt = (10 * ((s.reg rs).extractLsb' 2 14).toInt + 16) / 32 ∧
    -2560 ≤ (t.reg rd).toInt ∧ (t.reg rd).toInt ≤ 2560

/-- R69: T32T10 gives the 32-bit value of `10v + 16` shifted right by 5, which is `floor((10v + 16) / 32)` exactly for
`v` in `[-214748366, 214748363]`. -/
def Obligations.T32t10RescalesWithRounding : Prop :=
  RowR 0x21#8 .t32t10 ∧
  ∀ (rd rs : Reg) (s : State), ∃ t, exec (.t32t10 rd rs) s = .next t ∧ OnlyReg s t rd ∧
    (t.reg rd).toInt = (10 * (s.reg rs).toInt + 16).bmod (2 ^ 32) / 32 ∧
    ((t.reg rd).toInt = (10 * (s.reg rs).toInt + 16) / 32 ↔
      -214748366 ≤ (s.reg rs).toInt ∧ (s.reg rs).toInt ≤ 214748363)

/-- R72: C10F10 gives `(18c + 5) / 10 + 320` with a truncating division, wrapped outside
`[-119304647, 119304646]`. -/
def Obligations.C10f10ConvertsTenths : Prop :=
  RowR 0x22#8 .c10f10 ∧
  ∀ (rd rs : Reg) (s : State), ∃ t, exec (.c10f10 rd rs) s = .next t ∧ OnlyReg s t rd ∧
    (t.reg rd).toInt = ((18 * (s.reg rs).toInt + 5).bmod (2 ^ 32)).tdiv 10 + 320 ∧
    (-119304647 ≤ (s.reg rs).toInt → (s.reg rs).toInt ≤ 119304646 →
      (t.reg rd).toInt = (18 * (s.reg rs).toInt + 5).tdiv 10 + 320)

/-- R73: LUXDEC gives `(mantissa * 2^exponent + 50) / 100` for all 16 exponents, at most 1341850. -/
def Obligations.LuxdecDecodesToLux : Prop :=
  RowR 0x23#8 .luxdec ∧
  ∀ (rd rs : Reg) (s : State), ∃ t, exec (.luxdec rd rs) s = .next t ∧ OnlyReg s t rd ∧
    (t.reg rd).toNat =
      (((s.reg rs).extractLsb' 0 12).toNat * 2 ^ ((s.reg rs).extractLsb' 12 4).toNat + 50) / 100 ∧
    (t.reg rd).toNat ≤ 1341850

/-- R74: C100F10 gives `((9c) / 5 + 5) / 10 + 320` with truncating divisions, the product wrapped for
`|c| > 238609294`. -/
def Obligations.C100f10ConvertsHundredths : Prop :=
  RowR 0x24#8 .c100f10 ∧
  ∀ (rd rs : Reg) (s : State), ∃ t, exec (.c100f10 rd rs) s = .next t ∧ OnlyReg s t rd ∧
    (t.reg rd).toInt = (((9 * (s.reg rs).toInt).bmod (2 ^ 32)).tdiv 5 + 5).tdiv 10 + 320 ∧
    (-238609294 ≤ (s.reg rs).toInt → (s.reg rs).toInt ≤ 238609294 →
      (t.reg rd).toInt = ((9 * (s.reg rs).toInt).tdiv 5 + 5).tdiv 10 + 320)

/-- R75: PAINHG gives `(100p) / 3386`, truncating, the product wrapped for `p > 42949672`. -/
def Obligations.PainhgConvertsPascals : Prop :=
  RowR 0x25#8 .painhg ∧
  ∀ (rd rs : Reg) (s : State), ∃ t, exec (.painhg rd rs) s = .next t ∧ OnlyReg s t rd ∧
    (t.reg rd).toNat = (s.reg rs).toNat * 100 % 2 ^ 32 / 3386 ∧
    ((s.reg rs).toNat ≤ 42949672 → (t.reg rd).toNat = (s.reg rs).toNat * 100 / 3386)

/-- R76: TPSAMPLE writes both thermopile readings and TPV, and nothing else. -/
def Obligations.TpsampleStoresBothChannels : Prop :=
  RowP 0x26#8 .tpsample ∧
  ∀ (rs1 rs2 : Reg) (s : State), ∃ t, exec (.tpsample rs1 rs2) s = .next t ∧
    t.rdTpint.toInt = (10 * ((s.reg rs1).extractLsb' 2 14).toInt + 16) / 32 ∧
    t.rdTpext.toInt = (10 * ((s.reg rs2).extractLsb' 2 14).toInt + 16) / 32 ∧
    t = { s with rdTpint := t.rdTpint, rdTpext := t.rdTpext, status := { s.status with tpv := true } }

/-- R77: LUXSAMPLE writes RD_LUX and LUXV, and nothing else. -/
def Obligations.LuxsampleStoresTheReading : Prop :=
  RowU 0x27#8 .luxsample ∧
  ∀ (rs : Reg) (s : State), ∃ t, exec (.luxsample rs) s = .next t ∧
    t.rdLux.toNat = (((s.reg rs).extractLsb' 0 12).toNat * 2 ^ ((s.reg rs).extractLsb' 12 4).toNat + 50) / 100 ∧
    t = { s with rdLux := t.rdLux, status := { s.status with luxv := true } }

/-- R71: the thermopile decode is monotonic in the signed 14-bit field. -/
def Obligations.TpdecIsMonotonic : Prop :=
  (∀ v v' : Int, -8192 ≤ v → v ≤ v' → v' ≤ 8191 → t32t10 v ≤ t32t10 v') ∧
  ∀ r r' : BitVec 16, (r.extractLsb' 2 14).toInt ≤ (r'.extractLsb' 2 14).toInt → tpdec r ≤ tpdec r'

/-! ## Compensation (44_compensation.md) -/

/-- R85: COMPT with the trim file sealed writes `t_fine` to TFINE, TFV and the temperature to `x[rd]`; open, it raises
NOCAL. -/
def Obligations.ComptRunsTheTemperatureStage : Prop :=
  RowR 0x30#8 .compt ∧
  (∀ (rd rs : Reg) (s : State), s.status.cal = true → ∃ t, exec (.compt rd rs) s = .next t ∧
    t.reg rd = BitVec.ofInt 32 (compT s.calv (s.reg rs).toInt).t100 ∧ (∀ r, r ≠ rd → t.reg r = s.reg r) ∧
    t = { s with
      x := t.x
      tfine := BitVec.ofInt 32 (compT s.calv (s.reg rs).toInt).tf
      status := { s.status with tfv := true } }) ∧
  (∀ (rd rs : Reg) (s : State), s.status.cal = false →
    exec (.compt rd rs) s = .next (s.capture .nocal (encode (.compt rd rs))))

/-- R86: COMPH, sealed and with TFV, writes the humidity to `x[rd]` and both clamp flags, reading TFINE; else it raises
NOCAL first, then NOTFINE. -/
def Obligations.ComphRunsTheHumidityStage : Prop :=
  RowR 0x31#8 .comph ∧
  (∀ (rd rs : Reg) (s : State), s.status.cal = true → s.status.tfv = true → ∃ t, exec (.comph rd rs) s = .next t ∧
    t.reg rd = BitVec.ofInt 32 (compH s.calv (s.reg rs).toInt s.tfine.toInt).rh10 ∧ (∀ r, r ≠ rd → t.reg r = s.reg r) ∧
    t = { s with
      x := t.x
      status := { s.status with
        hclo := (compH s.calv (s.reg rs).toInt s.tfine.toInt).lo
        hchi := (compH s.calv (s.reg rs).toInt s.tfine.toInt).hi } }) ∧
  (∀ (rd rs : Reg) (s : State), s.status.cal = false →
    exec (.comph rd rs) s = .next (s.capture .nocal (encode (.comph rd rs)))) ∧
  (∀ (rd rs : Reg) (s : State), s.status.cal = true → s.status.tfv = false →
    exec (.comph rd rs) s = .next (s.capture .notfine (encode (.comph rd rs))))

/-- R87: COMPP, sealed and with TFV, writes the pressure, below 2^24, to `x[rd]` and PZERO, reading TFINE; else it raises
NOCAL first, then NOTFINE. -/
def Obligations.ComppRunsThePressureStage : Prop :=
  RowR 0x32#8 .compp ∧
  (∀ (rd rs : Reg) (s : State), s.status.cal = true → s.status.tfv = true → ∃ t, exec (.compp rd rs) s = .next t ∧
    t.reg rd = BitVec.ofInt 32 (compP s.calv (s.reg rs).toInt s.tfine.toInt).pa ∧ (t.reg rd).toNat ≤ 2 ^ 24 - 1 ∧
    (∀ r, r ≠ rd → t.reg r = s.reg r) ∧
    t = { s with
      x := t.x
      status := { s.status with pzero := (compP s.calv (s.reg rs).toInt s.tfine.toInt).zero } }) ∧
  (∀ (rd rs : Reg) (s : State), s.status.cal = false →
    exec (.compp rd rs) s = .next (s.capture .nocal (encode (.compp rd rs)))) ∧
  (∀ (rd rs : Reg) (s : State), s.status.cal = true → s.status.tfv = false →
    exec (.compp rd rs) s = .next (s.capture .notfine (encode (.compp rd rs))))

/-- R88: ENVSAMPLE, sealed, unpacks the burst buffer, runs the three stages with the `t_fine` it computes, and writes
TFINE, the three readings, TFV, ENVV and the condition flags together; open, it raises NOCAL. -/
def Obligations.EnvsampleRunsAllStages : Prop :=
  RowN 0x33#8 .envsample ∧
  (∀ s : State, s.status.cal = true →
    let adcP : Int := (s.rawByte 0 ++ s.rawByte 1 ++ (s.rawByte 2).extractLsb' 4 4).toNat
    let adcT : Int := (s.rawByte 3 ++ s.rawByte 4 ++ (s.rawByte 5).extractLsb' 4 4).toNat
    let adcH : Int := (s.rawByte 6 ++ s.rawByte 7).toNat
    let temp := compT s.calv adcT
    let hum := compH s.calv adcH temp.tf
    let pres := compP s.calv adcP temp.tf
    exec .envsample s = .next { s with
      tfine := BitVec.ofInt 32 temp.tf
      rdT100 := BitVec.ofInt 32 temp.t100
      rdRh10 := BitVec.ofInt 32 hum.rh10
      rdPa := BitVec.ofInt 32 pres.pa
      status := { s.status with
        tfv := true, envv := true, hclo := hum.lo, hchi := hum.hi, pzero := pres.zero } }) ∧
  (∀ s : State, s.status.cal = false → exec .envsample s = .next (s.capture .nocal (encode .envsample)))

/-- R84: a pre-clamp accumulator over 419430400 gives the result for 419430400, and one below 0 the result for 0; every
result lies in `[0, 1003]` (R81). -/
def Obligations.HumidityClampProperty : Prop :=
  ∀ (cv : Coef → Int) (adcH tf : Int),
    (humAccum cv adcH tf > 419430400 →
      (compH cv adcH tf).c = 419430400 ∧ (compH cv adcH tf).rh10 = 1003 ∧
      (compH cv adcH tf).hi = true ∧ (compH cv adcH tf).lo = false) ∧
    (humAccum cv adcH tf < 0 →
      (compH cv adcH tf).c = 0 ∧ (compH cv adcH tf).rh10 = 0 ∧
      (compH cv adcH tf).lo = true ∧ (compH cv adcH tf).hi = false) ∧
    (0 ≤ humAccum cv adcH tf → humAccum cv adcH tf ≤ 419430400 →
      (compH cv adcH tf).c = humAccum cv adcH tf ∧ (compH cv adcH tf).rh10 = humAccum cv adcH tf / 4096 / 102 ∧
      (compH cv adcH tf).lo = false ∧ (compH cv adcH tf).hi = false) ∧
    0 ≤ (compH cv adcH tf).rh10 ∧ (compH cv adcH tf).rh10 ≤ 1003

/-- R83: the zero flag says exactly that the stage-one accumulator is zero, the result is then 0, the quotient
is taken only for another accumulator, P1 = 0 forces the flag, and the one overflowing quotient gives `-2^63`. -/
def Obligations.PressureZeroGuard : Prop :=
  (∀ (cv : Coef → Int) (adcP tf : Int),
    ((compP cv adcP tf).zero = true ↔ presAccum cv tf = 0) ∧
    ((compP cv adcP tf).zero = true → (compP cv adcP tf).pa = 0) ∧
    (presAccum cv tf ≠ 0 →
      (compP cv adcP tf).pa = lsr (wrapU 32 (presCorrect cv (presQuotient cv adcP tf))) 8) ∧
    (cv .p1 = 0 → (compP cv adcP tf).zero = true)) ∧
  tdivS 64 (-9223372036854775808) (-1) = -9223372036854775808

/-- The temperature stage of R80 on integers equals a 32-bit two's complement datapath of adders, multipliers and
arithmetic shifters (R7, R8). -/
def Obligations.TemperatureStageIsA32BitDatapath : Prop :=
  ∀ (cv : Coef → Int) (adcT : Word),
    let T1 := BitVec.ofInt 32 (cv .t1)
    let T2 := BitVec.ofInt 32 (cv .t2)
    let T3 := BitVec.ofInt 32 (cv .t3)
    let a := adcT.sshiftRight 3 - T1 <<< 1
    let v1 := (a * T2).sshiftRight 11
    let b := adcT.sshiftRight 4 - T1
    let v2 := ((b * b).sshiftRight 12 * T3).sshiftRight 14
    let tf := v1 + v2
    BitVec.ofInt 32 (compT cv adcT.toInt).tf = tf ∧
    BitVec.ofInt 32 (compT cv adcT.toInt).t100 = (tf * 5#32 + 128#32).sshiftRight 8

/-- The humidity stage of R81 on integers equals a 32-bit two's complement datapath with its clamp (R7, R8, R79). -/
def Obligations.HumidityStageIsA32BitDatapath : Prop :=
  ∀ (cv : Coef → Int) (adcH tf : Word),
    let coef (k : Coef) : Word := BitVec.ofInt 32 (cv k)
    let x := tf - 76800#32
    let u := adcH <<< 14 - coef .h4 <<< 20 - coef .h5 * x
    let u2 := (u + 16384#32).sshiftRight 15
    let w1 := (x * coef .h6).sshiftRight 10
    let y := (x * coef .h3).sshiftRight 11 + 32768#32
    let w2 := (w1 * y).sshiftRight 10 + 2097152#32
    let w3 := (w2 * coef .h2 + 8192#32).sshiftRight 14
    let v := u2 * w3
    let z := v.sshiftRight 15
    let v2 := v - ((z * z).sshiftRight 7 * coef .h1).sshiftRight 4
    let c := if v2.slt 0#32 then 0#32 else if (419430400#32).slt v2 then 419430400#32 else v2
    BitVec.ofInt 32 (compH cv adcH.toInt tf.toInt).rh10 = c >>> 12 / 102#32 ∧
    (compH cv adcH.toInt tf.toInt).lo = v2.slt 0#32 ∧
    (compH cv adcH.toInt tf.toInt).hi = (419430400#32).slt v2

/-- The pressure stage of R82 on integers equals a 64-bit two's complement datapath whose divider truncates toward zero,
with its zero guard (R7, R8, R83). -/
def Obligations.PressureStageIsA64BitDatapath : Prop :=
  ∀ (cv : Coef → Int) (adcP tf : Word),
    let coef (k : Coef) : BitVec 64 := BitVec.ofInt 64 (cv k)
    let a1 := tf.signExtend 64 - 128000#64
    let b3 := a1 * a1 * coef .p6 + (a1 * coef .p5) <<< 17 + coef .p4 <<< 35
    let a2 := (a1 * a1 * coef .p3).sshiftRight 8 + (a1 * coef .p2) <<< 12
    let a3 := ((1#64 <<< 47 + a2) * coef .p1).sshiftRight 33
    let p0 := (1048576#32 - adcP).signExtend 64
    let p1 := ((p0 <<< 31 - b3) * 3125#64).sdiv a3
    let c1 := (coef .p9 * p1.sshiftRight 13 * p1.sshiftRight 13).sshiftRight 25
    let c2 := (coef .p8 * p1).sshiftRight 19
    let p2 := (p1 + c1 + c2).sshiftRight 8 + coef .p7 <<< 4
    BitVec.ofInt 32 (compP cv adcP.toInt tf.toInt).pa = (if a3 = 0#64 then 0#32 else p2.setWidth 32 >>> 8) ∧
    (compP cv adcP.toInt tf.toInt).zero = decide (a3 = 0#64)

/-- With an all-zero trim the three stages give temperature 0 and `t_fine` 0, humidity 0 without a clamp, and the
guarded pressure 0 (R85's corner case; 93_implementation_defined.md U14). -/
def Obligations.ZeroTrimGivesZeroReadings : Prop :=
  ∀ (cv : Coef → Int), (∀ c, cv c = 0) → ∀ adcT adcH adcP tf : Int,
    compT cv adcT = { tf := 0, t100 := 0 } ∧ compH cv adcH tf = { c := 0, rh10 := 0, lo := false, hi := false } ∧
    compP cv adcP tf = { pa := 0, zero := true }

/-- ENVSAMPLE stores what COMPT, COMPH and COMPP compute from the unpacked burst with the same trim: COMPT on the raw
temperature, then the other two with the TFINE that ENVSAMPLE leaves (R85 to R88). -/
def Obligations.EnvsampleAgreesWithTheStageCommands : Prop :=
  ∀ (s t : State) (rd rs : Reg), s.status.cal = true → exec .envsample s = .next t →
    (∀ u : State, u.status.cal = true → u.cal = s.cal →
      u.reg rs = 0#12 ++ s.rawByte 3 ++ s.rawByte 4 ++ (s.rawByte 5).extractLsb' 4 4 →
      ∃ v, exec (.compt rd rs) u = .next v ∧ v.reg rd = t.rdT100 ∧ v.tfine = t.tfine) ∧
    (∀ u : State, u.status.cal = true → u.status.tfv = true → u.cal = s.cal → u.tfine = t.tfine →
      u.reg rs = 0#16 ++ s.rawByte 6 ++ s.rawByte 7 →
      ∃ v, exec (.comph rd rs) u = .next v ∧ v.reg rd = t.rdRh10 ∧ v.status.hclo = t.status.hclo ∧
        v.status.hchi = t.status.hchi) ∧
    (∀ u : State, u.status.cal = true → u.status.tfv = true → u.cal = s.cal → u.tfine = t.tfine →
      u.reg rs = 0#12 ++ s.rawByte 0 ++ s.rawByte 1 ++ (s.rawByte 2).extractLsb' 4 4 →
      ∃ v, exec (.compp rd rs) u = .next v ∧ v.reg rd = t.rdPa ∧ v.status.pzero = t.status.pzero)

/-- ENVSAMPLE's results depend on the trim file and the used burst bits only: not on the old TFINE, TFV, X registers,
readings or exception record, nor on the low nibbles of RAW2 and RAW5 (R88; 93_implementation_defined.md V6). -/
def Obligations.EnvsampleReadsOnlyTrimAndBurst : Prop :=
  ∀ s s' t t' : State, s.status.cal = true → s'.status.cal = true → s.cal = s'.cal →
    (∀ k, k ≠ 2 → k ≠ 5 → s.rawByte k = s'.rawByte k) →
    (s.rawByte 2).extractLsb' 4 4 = (s'.rawByte 2).extractLsb' 4 4 →
    (s.rawByte 5).extractLsb' 4 4 = (s'.rawByte 5).extractLsb' 4 4 →
    exec .envsample s = .next t → exec .envsample s' = .next t' →
    t.tfine = t'.tfine ∧ t.rdT100 = t'.rdT100 ∧ t.rdRh10 = t'.rdRh10 ∧ t.rdPa = t'.rdPa ∧
    t.status.hclo = t'.status.hclo ∧ t.status.hchi = t'.status.hchi ∧ t.status.pzero = t'.status.pzero

/-! ## Exceptions (60_exceptions.md) -/

/-- The capture of R92 with the codes of R89: the first exception is recorded, a further one sets EOVF only, and nothing
else changes. -/
def Obligations.CaptureRecordsTheFirstException : Prop :=
  (∀ (s : State) (e : Cause) (info : Word),
    (s.status.err = false → s.capture e info =
      { s with status := { s.status with err := true, ecode := e.code }, einfo := info }) ∧
    (s.status.err = true → s.capture e info = { s with status := { s.status with eovf := true } })) ∧
  Cause.illegalCmd.code = 1 ∧ Cause.nocal.code = 2 ∧ Cause.notfine.code = 3 ∧ Cause.calLocked.code = 4 ∧
  Cause.hostAccess.code = 5

/-- Exceptions of commands are precise: a command either leaves the exception record alone, or its state after is the
state before plus the capture of one cause that R89 lets it raise, with its command word (R89, R92). -/
def Obligations.CommandExceptionsArePrecise : Prop :=
  ∀ (i : Instr) (s : State),
    (∃ t, exec i s = .next t ∧ t.errRecord = s.errRecord) ∨
    (∃ c : Cause, Raises c i ∧ exec i s = .next (s.capture c (encode i)))

/-- Commands are performed as if ERR were 0: with any other exception record a command does the same, the record apart;
only GETR of STATUS reads it (R93, R57). -/
def Obligations.ExceptionRecordDoesNotAffectCommands : Prop :=
  ∀ (i : Instr) (s : State) (r : ErrRecord), (∀ rd, i ≠ .getr rd 7) →
    (∃ t, exec i s = .next t ∧ t.errRecord = s.errRecord ∧ exec i (s.withRecord r) = .next (t.withRecord r)) ∨
    (∃ c : Cause, exec i s = .next (s.capture c (encode i)) ∧
      exec i (s.withRecord r) = .next ((s.withRecord r).capture c (encode i)))

/-- R94: a STATUS write with bit 16 set clears ERR, EOVF, ECODE and EINFO and nothing else, without it it does nothing
(R22); no other event but a reset clears ERR. -/
def Obligations.StatusWriteIsTheReturn : Prop :=
  (∀ (s : State) (v : Word) (rest : List HostEvent),
    step { s with pending := .write 0x008#9 4 v :: rest } = .next (
      if v.getLsbD 16 then
        { s with pending := rest, einfo := 0, status := { s.status with err := false, eovf := false, ecode := 0 } }
      else { s with pending := rest })) ∧
  (∀ s t : State, step s = .next t → s.status.err = true →
    t.status.err = true ∧ t.status.ecode = s.status.ecode ∧ t.einfo = s.einfo ∨
    ∃ rest, s.pending = .resetSignal :: rest ∨
      ∃ v : Word, (s.pending = .write 0x008#9 4 v :: rest ∧ v.getLsbD 16 = true) ∨
        (s.pending = .write 0x004#9 4 v :: rest ∧ v.getLsbD 0 = true))

/-! ## The host window (20_memory.md) -/

/-- R29's map: every register is found at its address, and an address that finds one is that register's. -/
def Obligations.WindowMapIsOneToOne : Prop :=
  (∀ r : WindowReg, windowReg? r.addr = some r) ∧ (∀ (a : WindowAddr) (r : WindowReg), windowReg? a = some r → r.addr = a) ∧
  ∀ a : WindowAddr, windowReg? a = none ↔ a.toNat % 4 ≠ 0 ∨ reservedAddr a.toNat

/-- R31: an accepted read returns the register and changes nothing but the data the host holds. -/
def Obligations.HostReadReturnsTheRegister : Prop :=
  ∀ (s : State) (rest : List HostEvent),
    let reads (a : Nat) (v : Word) : Prop :=
      step { s with pending := .read (BitVec.ofNat 9 a) 4 :: rest } =
        .next { s with pending := rest, readData := some v }
    reads 0x000 0x57534346#32 ∧ reads 0x004 0 ∧ reads 0x008 s.status.toWord ∧ reads 0x00C s.einfo ∧ reads 0x010 0 ∧
    (∀ r : Reg, reads (0x040 + 4 * r.toNat) (s.reg r)) ∧
    (∀ k : BitVec 3, reads (0x080 + 4 * k.toNat) (0#24 ++ s.rawByte k)) ∧
    (∀ c : Coef, reads (0x0A0 + 4 * c.index) (BitVec.ofInt 32 (s.calv c))) ∧
    reads 0x100 s.tfine ∧ reads 0x104 s.rdT100 ∧ reads 0x108 s.rdRh10 ∧ reads 0x10C s.rdPa ∧ reads 0x110 s.rdTpint ∧
    reads 0x114 s.rdTpext ∧ reads 0x118 s.rdLux

/-- R30: an access that is not 4 bytes, not aligned or at a reserved address, and a write to a read-only register, raise
HOST_ACCESS with the byte address; a refused read returns 0; a CAL write while sealed raises CAL_LOCKED. -/
def Obligations.RefusedAccessesRaise : Prop :=
  ∀ (s : State) (rest : List HostEvent) (a : WindowAddr) (n : Nat) (v : Word),
    (n ≠ 4 ∨ a.toNat % 4 ≠ 0 ∨ reservedAddr a.toNat →
      step { s with pending := .read a n :: rest } =
        .next { ({ s with pending := rest }.capture .hostAccess (0#23 ++ a)) with readData := some 0 }) ∧
    (n ≠ 4 ∨ a.toNat % 4 ≠ 0 ∨ reservedAddr a.toNat ∨ readOnlyAddr a.toNat →
      step { s with pending := .write a n v :: rest } =
        .next ({ s with pending := rest }.capture .hostAccess (0#23 ++ a))) ∧
    (n = 4 → a.toNat % 4 = 0 → 0x0A0 ≤ a.toNat → a.toNat < 0x0E8 → s.status.cal = true →
      step { s with pending := .write a n v :: rest } =
        .next ({ s with pending := rest }.capture .calLocked (0#23 ++ a)))

/-- R32's writes of X, RAW, CAL and CTRL: each stores what R32 says and nothing else. -/
def Obligations.HostWritesStore : Prop :=
  ∀ (s : State) (rest : List HostEvent) (v : Word),
    (∀ r : Reg, ∃ t, step { s with pending := .write (BitVec.ofNat 9 (0x040 + 4 * r.toNat)) 4 v :: rest } = .next t ∧
      WritesReg { s with pending := rest } t r v) ∧
    (∀ k : BitVec 3, ∃ t, step { s with pending := .write (BitVec.ofNat 9 (0x080 + 4 * k.toNat)) 4 v :: rest } = .next t ∧
      t.rawByte k = v.extractLsb' 0 8 ∧ (∀ k', k' ≠ k → t.rawByte k' = s.rawByte k') ∧
      t = { s with pending := rest, raw := t.raw }) ∧
    (∀ c : Coef, s.status.cal = false →
      ∃ t, step { s with pending := .write (BitVec.ofNat 9 (0x0A0 + 4 * c.index)) 4 v :: rest } = .next t ∧
        WritesCoef { s with pending := rest } t c v c.width fun b => c.signed b) ∧
    (v.getLsbD 0 = false →
      step { s with pending := .write 0x004#9 4 v :: rest } = .next { s with pending := rest })

/-- Every accepted write but those of CTRL and CMD is idempotent (R32). -/
def Obligations.HostWritesAreIdempotent : Prop :=
  ∀ (s t : State) (r : WindowReg) (v : Word), r.readOnly = false → r ≠ .ctrl → r ≠ .cmd →
    (∀ c, r = .cal c → s.status.cal = false) → memWrite r.addr 4 v s = .next t → memWrite r.addr 4 v t = .next t

/-! ## Rules over all commands -/

/-- A well-formed command changes no window register but those its rule names, STATUS and EINFO of an exception
included, and neither the host's port (R38, R52, R92). -/
def Obligations.CommandsChangeOnlyWhatTheyName : Prop :=
  ∀ (i : Instr) (s t : State), i.wellFormed = true → exec i s = .next t →
    (∀ r : WindowReg, touches i r = false → t.readWindow r = s.readWindow r) ∧
    t.pending = s.pending ∧ t.readData = s.readData

/-- The valid bits and condition flags change only by the commands that R23 and R24 name, each in the direction R23
gives, and by a reset, which clears them. The first clause is about commands; the second is about every step, so no host
read, no refused access, no other write and no illegal word changes one of them. -/
def Obligations.ValidBitsAndFlagsChangeOnlyAsListed : Prop :=
  (∀ (i : Instr) (s t : State), exec i s = .next t →
    (t.status.cal ≠ s.status.cal → (i = .calseal ∧ t.status.cal = true) ∨ (i = .calopen ∧ t.status.cal = false)) ∧
    (t.status.tfv ≠ s.status.tfv → (i = .calopen ∧ t.status.tfv = false) ∨
      (((∃ rd rs, i = .compt rd rs) ∨ i = .envsample) ∧ t.status.tfv = true ∧ s.status.cal = true)) ∧
    (t.status.envv ≠ s.status.envv → i = .envsample ∧ t.status.envv = true) ∧
    (t.status.tpv ≠ s.status.tpv → (∃ a b, i = .tpsample a b) ∧ t.status.tpv = true) ∧
    (t.status.luxv ≠ s.status.luxv → (∃ a, i = .luxsample a) ∧ t.status.luxv = true) ∧
    (t.status.pzero ≠ s.status.pzero → (∃ rd rs, i = .compp rd rs) ∨ i = .envsample) ∧
    (t.status.hclo ≠ s.status.hclo ∨ t.status.hchi ≠ s.status.hchi → (∃ rd rs, i = .comph rd rs) ∨ i = .envsample)) ∧
  (∀ s t : State, step s = .next t →
    (t.status.cal ≠ s.status.cal →
      (Serves s .calseal ∧ t.status.cal = true) ∨ ((Serves s .calopen ∨ ServesReset s) ∧ t.status.cal = false)) ∧
    (t.status.tfv ≠ s.status.tfv →
      ((Serves s .calopen ∨ ServesReset s) ∧ t.status.tfv = false) ∨
      (((∃ rd rs, Serves s (.compt rd rs)) ∨ Serves s .envsample) ∧ t.status.tfv = true ∧ s.status.cal = true)) ∧
    (t.status.envv ≠ s.status.envv →
      (Serves s .envsample ∧ t.status.envv = true) ∨ (ServesReset s ∧ t.status.envv = false)) ∧
    (t.status.tpv ≠ s.status.tpv →
      ((∃ a b, Serves s (.tpsample a b)) ∧ t.status.tpv = true) ∨ (ServesReset s ∧ t.status.tpv = false)) ∧
    (t.status.luxv ≠ s.status.luxv →
      ((∃ a, Serves s (.luxsample a)) ∧ t.status.luxv = true) ∨ (ServesReset s ∧ t.status.luxv = false)) ∧
    (t.status.pzero ≠ s.status.pzero →
      (∃ rd rs, Serves s (.compp rd rs)) ∨ Serves s .envsample ∨ (ServesReset s ∧ t.status.pzero = false)) ∧
    (t.status.hclo ≠ s.status.hclo →
      (∃ rd rs, Serves s (.comph rd rs)) ∨ Serves s .envsample ∨ (ServesReset s ∧ t.status.hclo = false)) ∧
    (t.status.hchi ≠ s.status.hchi →
      (∃ rd rs, Serves s (.comph rd rs)) ∨ Serves s .envsample ∨ (ServesReset s ∧ t.status.hchi = false)))

/-- While the trim file is sealed no step but a reset changes it (R17, R109). -/
def Obligations.SealedTrimFileIsUnchanged : Prop :=
  ∀ s t : State, s.status.cal = true → step s = .next t →
    t.cal = s.cal ∨ ∃ rest, s.pending = .resetSignal :: rest ∨
      ∃ v : Word, s.pending = .write 0x004#9 4 v :: rest ∧ v.getLsbD 0 = true

/-- STATUS as a 32-bit register: each field at its bits, and zeros at the reserved bits 15:8, 19:18 and 31:24 (R22). -/
def Obligations.StatusWordHoldsItsFields : Prop :=
  ∀ t : Status,
    t.toWord.getLsbD 0 = t.cal ∧ t.toWord.getLsbD 1 = t.tfv ∧ t.toWord.getLsbD 2 = t.envv ∧ t.toWord.getLsbD 3 = t.tpv ∧
    t.toWord.getLsbD 4 = t.luxv ∧ t.toWord.getLsbD 5 = t.pzero ∧ t.toWord.getLsbD 6 = t.hclo ∧
    t.toWord.getLsbD 7 = t.hchi ∧ t.toWord.extractLsb' 8 8 = 0 ∧ t.toWord.getLsbD 16 = t.err ∧
    t.toWord.getLsbD 17 = t.eovf ∧ t.toWord.extractLsb' 18 2 = 0 ∧ t.toWord.extractLsb' 20 4 = t.ecode ∧
    t.toWord.extractLsb' 24 8 = 0

/-- R50: LI32's two commands leave `x[d] = imm32` and nothing else changed; CLR and TPREAD are their one command; no other
name is a pseudo-instruction. -/
def Obligations.PseudoInstructionsExpand : Prop :=
  (∀ (rd : Reg) (imm : Word) (s : State),
    pseudoLi32 rd imm = [.ldi rd (imm.extractLsb' 0 16), .ldih rd (imm.extractLsb' 16 16)] ∧
    ∃ t u, exec (.ldi rd (imm.extractLsb' 0 16)) s = .next t ∧ exec (.ldih rd (imm.extractLsb' 16 16)) t = .next u ∧
      WritesReg s u rd imm) ∧
  (∀ rd : Reg, pseudoClr rd = [.ldi rd 0]) ∧ (∀ rd rs : Reg, pseudoTpread rd rs = [.tpdec rd rs]) ∧
  ∀ (name : List Char) (ops : List (List Char)) (is : List Instr), assemblePseudo name ops = some is →
    name = "LI32".toList ∨ name = "CLR".toList ∨ name = "TPREAD".toList
end

