-- ==== Sys2Proof/Laws/Arith.lean ====
section
/-! SUPPORT. What each primitive of 00_scope.md R8 is: its range, when it does not wrap, and its form on bit vectors. -/

namespace Sys2Proof.Machine

theorem pow2_pos (k : Nat) : 0 < pow2 k := by unfold pow2; exact_mod_cast Nat.two_pow_pos k

/-- Reading back an integer written to a 32-bit register gives it wrapped (R7). -/
theorem toInt_wordOf (i : Int) : (wordOf i).toInt = wrapS 32 i := by
  simp [wordOf, wrapS, BitVec.toInt_ofInt]

theorem wrapS_eq (n : Nat) (i : Int) : wrapS n i = (BitVec.ofInt n i).toInt := by
  simp [wrapS, BitVec.toInt_ofInt]

/-- `wrapS_32` lands in the signed 32-bit range (R7). -/
theorem wrapS_32_range (i : Int) : -2147483648 ≤ wrapS 32 i ∧ wrapS 32 i < 2147483648 := by
  unfold wrapS; simp only [Int.bmod_def]; split <;> omega

/-- `wrapS_32` is the identity on the signed 32-bit range (R7). -/
theorem wrapS_32_of_range (i : Int) (h : -2147483648 ≤ i) (h' : i < 2147483648) : wrapS 32 i = i := by
  unfold wrapS; simp only [Int.bmod_def]; split <;> omega

/-- Writing an integer of the signed range and reading it back gives it (R7). -/
theorem toInt_wordOf_of_range (i : Int) (h : -2147483648 ≤ i) (h' : i < 2147483648) : (wordOf i).toInt = i := by
  rw [toInt_wordOf, wrapS_32_of_range i h h']

/-- Writing an integer of the unsigned range and reading it back gives it (R7). -/
theorem toNat_wordOf_of_range (i : Int) (h : 0 ≤ i) (h' : i < 4294967296) : ((wordOf i).toNat : Int) = i := by
  simp only [wordOf, BitVec.toNat_ofInt]; omega

/-- A division truncated toward zero brings its dividend no further from zero (R8). -/
theorem tdiv_bounds (q k : Int) (hk : 0 < k) :
    (0 ≤ q → 0 ≤ q.tdiv k ∧ k * q.tdiv k ≤ q) ∧ (q ≤ 0 → q ≤ k * q.tdiv k ∧ q.tdiv k ≤ 0) := by
  have pos : ∀ p : Int, 0 ≤ p → 0 ≤ p.tdiv k ∧ k * p.tdiv k ≤ p := fun p hp => by
    rw [Int.tdiv_eq_ediv_of_nonneg hp]
    exact ⟨Int.ediv_nonneg hp hk.le, Int.mul_ediv_self_le hk.ne'⟩
  refine ⟨pos q, fun hq => ?_⟩
  have h := pos (-q) (by omega)
  rw [Int.neg_tdiv, Int.mul_neg] at h
  omega

/-- The final scaling of the humidity stage stays in `[0, 1003]` (44_compensation.md R81). -/
theorem humClamp_range (v : Int) : 0 ≤ (humClamp v).rh10 ∧ (humClamp v).rh10 ≤ 1003 := by
  simp only [humClamp, udiv, lsr, pow2]; omega

/-- `t_fine` is a 32-bit signed number, so writing it to TFINE loses nothing (44_compensation.md R80). -/
theorem toInt_wordOf_compT_tf (cv : Coef → Int) (adcT : Int) : (wordOf (compT cv adcT).tf).toInt = (compT cv adcT).tf := by
  obtain ⟨z, hz⟩ : ∃ z, (compT cv adcT).tf = wrapS 32 z := ⟨_, by dsimp only [compT, addS]⟩
  rw [toInt_wordOf, hz, wrapS_eq, wrapS_eq, BitVec.ofInt_toInt]

/-- The pressure stage's result stays below `2^24` (44_compensation.md R87). -/
theorem compP_range (cv : Coef → Int) (adcP tf : Int) :
    0 ≤ (compP cv adcP tf).pa ∧ (compP cv adcP tf).pa < 16777216 := by
  unfold compP; split
  · simp
  · simp only [lsr, wrapU, pow2]; omega

/-- The thermopile field is a signed 14-bit number (42_unpack.md R66). -/
theorem field14_range (r : BitVec 16) : -8192 ≤ field14 r ∧ field14 r ≤ 8191 := by
  have h := BitVec.le_toInt r
  have h' := BitVec.toInt_lt (x := r)
  simp only [field14, asr, pow2]; omega

/-- On the thermopile's inputs the rescale never wraps (43_scale.md R69, R71). -/
theorem t32t10_of_field (v : Int) (h : -8192 ≤ v) (h' : v ≤ 8191) : t32t10 v = (10 * v + 16) / 32 := by
  unfold t32t10 addS mulS asr
  rw [wrapS_32_of_range (v * 10) (by omega) (by omega), wrapS_32_of_range _ (by omega) (by omega)]
  simp only [pow2]; omega

/-- The thermopile decode lies in `[-2560, 2560]` (43_scale.md R70). -/
theorem tpdec_range (r : BitVec 16) : -2560 ≤ tpdec r ∧ tpdec r ≤ 2560 := by
  have h := field14_range r
  unfold tpdec
  rw [t32t10_of_field _ h.1 h.2]; omega

/-- The lux decode never wraps and is at most 1341850 (43_scale.md R73). -/
theorem lux_eq (r : BitVec 16) :
    lux r = ((((mantissa r).toNat * 2 ^ (exponent r).toNat + 50) / 100 : Nat) : Int) ∧ 0 ≤ lux r ∧ lux r ≤ 1341850 := by
  have hm := (mantissa r).isLt
  have he := (exponent r).isLt
  have hp : 2 ^ (exponent r).toNat ≤ 2 ^ 15 := Nat.pow_le_pow_right (by omega) (by omega)
  have hb : (mantissa r).toNat * 2 ^ (exponent r).toNat ≤ 4095 * 2 ^ 15 := Nat.mul_le_mul (by omega) hp
  generalize hq : (mantissa r).toNat * 2 ^ (exponent r).toNat = q at hb ⊢
  have hl : lux r = ((((q : Int) % 4294967296) + 50) % 4294967296) / 100 := by
    simp only [lux, udiv, addU, mulU, wrapU, pow2, ← hq]; push_cast; rfl
  rw [hl]; push_cast; omega

/-! ## The primitives of 00_scope.md R8 as two's complement operations -/

theorem addS_toInt {n : Nat} (a b : BitVec n) : addS n a.toInt b.toInt = (a + b).toInt := by
  unfold addS; rw [BitVec.toInt_add]; rfl

theorem subS_toInt {n : Nat} (a b : BitVec n) : subS n a.toInt b.toInt = (a - b).toInt := by
  unfold subS; rw [BitVec.toInt_sub]; rfl

theorem mulS_toInt {n : Nat} (a b : BitVec n) : mulS n a.toInt b.toInt = (a * b).toInt := by
  unfold mulS; rw [BitVec.toInt_mul]; rfl

theorem asr_toInt {n : Nat} (a : BitVec n) (k : Nat) : asr a.toInt k = (a.sshiftRight k).toInt := by
  unfold asr; rw [BitVec.toInt_sshiftRight, Int.shiftRight_eq_div_pow]; rfl

theorem tdivS_toInt {n : Nat} (a b : BitVec n) : tdivS n a.toInt b.toInt = (a.sdiv b).toInt := by
  unfold tdivS; rw [BitVec.toInt_sdiv]; rfl

/-- A wrapped sum, difference or product may first wrap its right operand, such as a coefficient's value. -/
theorem addS_wrap (n : Nat) (a b : Int) : addS n a (wrapS n b) = addS n a b := by
  unfold addS wrapS; rw [Int.add_bmod_bmod]

theorem subS_wrap (n : Nat) (a b : Int) : subS n a (wrapS n b) = subS n a b := by
  unfold subS wrapS; rw [Int.sub_bmod_bmod]

theorem mulS_wrap (n : Nat) (a b : Int) : mulS n a (wrapS n b) = mulS n a b := by
  unfold mulS wrapS; rw [Int.mul_bmod_bmod]

theorem shlS_eq_shiftLeft (n : Nat) (i : Int) (k : Nat) : shlS n i k = (BitVec.ofInt n i <<< k).toInt := by
  unfold shlS; rw [wrapS_eq, BitVec.shiftLeft_eq_mul_twoPow, BitVec.ofInt_mul]
  congr 2
  apply BitVec.eq_of_toNat_eq; rw [BitVec.toNat_ofInt, BitVec.toNat_twoPow]; unfold pow2
  rw [← Int.natCast_mod, Int.toNat_natCast]

end Sys2Proof.Machine
end

