-- ==== Sys2Proof/Laws/Decode.lean ====
section
/-! SUPPORT. The fields of a command word, the fixed-bit masks as statements about fields, and what decoding gives for
each operation code. -/

namespace Sys2Proof

theorem ofCode?_code (o : Op) : Op.ofCode? o.code = some o := by cases o <;> rfl

/-- `ofCode?` finds exactly the row with that OP value (30_encoding.md R46). -/
theorem ofCode?_eq_some (c : BitVec 8) (o : Op) : Op.ofCode? c = some o ↔ o.code = c := by
  constructor
  · intro h
    have := List.find?_some h
    simpa using this
  · rintro rfl; exact ofCode?_code o

theorem opField_pack (o : Op) (a b : BitVec 4) (c : BitVec 16) : opField (packWord o a b c) = o.code := by
  apply BitVec.eq_of_getLsbD_eq; intro i hi
  simp only [opField, packWord, BitVec.getLsbD_extractLsb', BitVec.getLsbD_append]
  rw [if_neg (by omega), if_neg (by omega), if_neg (by omega), show 24 + i - 16 - 4 - 4 = i by omega]
  simp [hi]

theorem aField_pack (o : Op) (a b : BitVec 4) (c : BitVec 16) : aField (packWord o a b c) = a := by
  apply BitVec.eq_of_getLsbD_eq; intro i hi
  simp only [aField, packWord, BitVec.getLsbD_extractLsb', BitVec.getLsbD_append]
  rw [if_neg (by omega), if_neg (by omega), if_pos (by omega), show 20 + i - 16 - 4 = i by omega]
  simp [hi]

theorem bField_pack (o : Op) (a b : BitVec 4) (c : BitVec 16) : bField (packWord o a b c) = b := by
  apply BitVec.eq_of_getLsbD_eq; intro i hi
  simp only [bField, packWord, BitVec.getLsbD_extractLsb', BitVec.getLsbD_append]
  rw [if_neg (by omega), if_pos (by omega)]
  simp [hi]

theorem cField_pack (o : Op) (a b : BitVec 4) (c : BitVec 16) : cField (packWord o a b c) = c := by
  apply BitVec.eq_of_getLsbD_eq; intro i hi
  simp only [cField, packWord, BitVec.getLsbD_extractLsb', BitVec.getLsbD_append]
  rw [if_pos (by omega)]
  simp [hi]

/-- A word whose OP is a row's is that row's four fields put together (30_encoding.md R41). -/
theorem pack_fields (w : Word) (o : Op) (h : opField w = o.code) :
    packWord o (aField w) (bField w) (cField w) = w := by
  unfold packWord; rw [← h]
  apply BitVec.eq_of_getLsbD_eq; intro i hi
  simp only [opField, aField, bField, cField, BitVec.getLsbD_extractLsb', BitVec.getLsbD_append]
  split
  · next h1 => simp [h1]
  · split
    · next h1 h2 => simp [h2, show 16 + (i - 16) = i by omega]
    · split
      · next h1 h2 h3 =>
        rw [show 20 + (i - 16 - 4) = i by omega, decide_eq_true (show i - 16 - 4 < 4 by omega), Bool.true_and]
      · next h1 h2 h3 =>
        rw [show 24 + (i - 16 - 4 - 4) = i by omega, decide_eq_true (show i - 16 - 4 - 4 < 8 by omega), Bool.true_and]

/-- A field is zero when each of its bits is. -/
theorem extract_eq_zero (w : Word) (k n : Nat) : w.extractLsb' k n = 0 ↔ ∀ j < n, w.getLsbD (k + j) = false := by
  constructor
  · intro h j hj
    have := congrArg (fun v => v.getLsbD j) h
    simpa [BitVec.getLsbD_extractLsb', hj] using this
  · intro h
    apply BitVec.eq_of_getLsbD_eq; intro j hj
    simp [hj, h j hj]

/-- The mask comparison of 30_encoding.md R46 asks that every reserved bit below the OP is 0. -/
theorem mask_eq_iff (w m : Word) (o : Op) (h : opField w = o.code) (hm : m.extractLsb' 24 8 = 255#8) :
    w &&& m = o.matchWord ↔ ∀ i < 24, m.getLsbD i = true → w.getLsbD i = false := by
  have hw : ∀ j < 8, w.getLsbD (24 + j) = o.code.getLsbD j := fun j hj => by
    rw [← h]; simp [opField, hj]
  have hm' : ∀ j < 8, m.getLsbD (24 + j) = true := fun j hj => by
    have := congrArg (fun v => v.getLsbD j) hm
    simp only [BitVec.getLsbD_extractLsb', hj, decide_true, Bool.true_and] at this
    rw [this]; interval_cases j <;> rfl
  unfold Op.matchWord
  constructor
  · intro e i hi hmi
    have := congrArg (fun v => v.getLsbD i) e
    simp only [BitVec.getLsbD_and, BitVec.getLsbD_append, hmi, if_pos hi, Bool.and_true] at this
    rw [this, BitVec.getLsbD_zero]
  · intro H
    apply BitVec.eq_of_getLsbD_eq; intro i hi
    rw [BitVec.getLsbD_and, BitVec.getLsbD_append]
    by_cases h24 : i < 24
    · rw [if_pos h24]
      cases hmi : m.getLsbD i
      · simp
      · simp [H i h24 hmi]
    · rw [if_neg h24]
      have a := hw (i - 24) (by omega)
      have b := hm' (i - 24) (by omega)
      rw [show 24 + (i - 24) = i by omega] at a b
      rw [a, b, Bool.and_true]

/-- Fields of field C are fields of the word (30_encoding.md R41). -/
theorem extract_cField (w : Word) (k n : Nat) (h : k + n ≤ 16) : (cField w).extractLsb' k n = w.extractLsb' k n := by
  apply BitVec.eq_of_getLsbD_eq; intro i hi
  simp only [cField, BitVec.getLsbD_extractLsb', hi, decide_true, Bool.true_and, Nat.zero_add]
  rw [decide_eq_true (by omega), Bool.true_and]

/-! For each format, the mask comparison as a statement about the fields that R42 reserves. -/

theorem mask_n (w : Word) (o : Op) (h : opField w = o.code) :
    w &&& Format.mask .n = o.matchWord ↔ w.extractLsb' 20 4 = 0 ∧ w.extractLsb' 16 4 = 0 ∧ w.extractLsb' 0 16 = 0 := by
  rw [mask_eq_iff w _ o h (by decide)]; simp only [extract_eq_zero]
  constructor
  · intro H
    exact ⟨fun j hj => H _ (by omega) (by interval_cases j <;> rfl), fun j hj => H _ (by omega) (by interval_cases j <;> rfl),
      fun j hj => H _ (by omega) (by interval_cases j <;> rfl)⟩
  · rintro ⟨ha, hb, hc⟩ i hi -
    by_cases h1 : 20 ≤ i
    · have := ha (i - 20) (by omega); rwa [show 20 + (i - 20) = i by omega] at this
    by_cases h2 : 16 ≤ i
    · have := hb (i - 16) (by omega); rwa [show 16 + (i - 16) = i by omega] at this
    · have := hc i (by omega); rwa [Nat.zero_add] at this

theorem mask_i (w : Word) (o : Op) (h : opField w = o.code) :
    w &&& Format.mask .i = o.matchWord ↔ w.extractLsb' 16 4 = 0 := by
  rw [mask_eq_iff w _ o h (by decide)]; simp only [extract_eq_zero]
  constructor
  · exact fun H j hj => H _ (by omega) (by interval_cases j <;> rfl)
  · intro hb i hi hm
    by_cases h1 : 16 ≤ i ∧ i < 20
    · have := hb (i - 16) (by omega); rwa [show 16 + (i - 16) = i by omega] at this
    · interval_cases i <;> first | omega | exact absurd hm (by decide)

theorem mask_r (w : Word) (o : Op) (h : opField w = o.code) :
    w &&& Format.mask .r = o.matchWord ↔ w.extractLsb' 0 16 = 0 := by
  rw [mask_eq_iff w _ o h (by decide)]; simp only [extract_eq_zero]
  constructor
  · exact fun H j hj => H _ (by omega) (by interval_cases j <;> rfl)
  · intro hc i hi hm
    by_cases h1 : i < 16
    · have := hc i h1; rwa [Nat.zero_add] at this
    · interval_cases i <;> first | omega | exact absurd hm (by decide)

theorem mask_g (w : Word) (o : Op) (h : opField w = o.code) :
    w &&& Format.mask .g = o.matchWord ↔ w.extractLsb' 16 4 = 0 ∧ w.extractLsb' 4 12 = 0 := by
  rw [mask_eq_iff w _ o h (by decide)]; simp only [extract_eq_zero]
  constructor
  · exact fun H => ⟨fun j hj => H _ (by omega) (by interval_cases j <;> rfl), fun j hj => H _ (by omega) (by interval_cases j <;> rfl)⟩
  · rintro ⟨hb, hc⟩ i hi hm
    by_cases h1 : 16 ≤ i ∧ i < 20
    · have := hb (i - 16) (by omega); rwa [show 16 + (i - 16) = i by omega] at this
    by_cases h2 : 4 ≤ i ∧ i < 16
    · have := hc (i - 4) (by omega); rwa [show 4 + (i - 4) = i by omega] at this
    · interval_cases i <;> first | omega | exact absurd hm (by decide)

theorem mask_s (w : Word) (o : Op) (h : opField w = o.code) :
    w &&& Format.mask .s = o.matchWord ↔ w.extractLsb' 20 4 = 0 ∧ w.extractLsb' 3 13 = 0 := by
  rw [mask_eq_iff w _ o h (by decide)]; simp only [extract_eq_zero]
  constructor
  · exact fun H => ⟨fun j hj => H _ (by omega) (by interval_cases j <;> rfl), fun j hj => H _ (by omega) (by interval_cases j <;> rfl)⟩
  · rintro ⟨ha, hc⟩ i hi hm
    by_cases h1 : 20 ≤ i
    · have := ha (i - 20) (by omega); rwa [show 20 + (i - 20) = i by omega] at this
    by_cases h2 : 3 ≤ i ∧ i < 16
    · have := hc (i - 3) (by omega); rwa [show 3 + (i - 3) = i by omega] at this
    · interval_cases i <;> first | omega | exact absurd hm (by decide)

theorem mask_k (w : Word) (o : Op) (h : opField w = o.code) :
    w &&& Format.mask .k = o.matchWord ↔ w.extractLsb' 20 4 = 0 ∧ w.extractLsb' 5 11 = 0 := by
  rw [mask_eq_iff w _ o h (by decide)]; simp only [extract_eq_zero]
  constructor
  · exact fun H => ⟨fun j hj => H _ (by omega) (by interval_cases j <;> rfl), fun j hj => H _ (by omega) (by interval_cases j <;> rfl)⟩
  · rintro ⟨ha, hc⟩ i hi hm
    by_cases h1 : 20 ≤ i
    · have := ha (i - 20) (by omega); rwa [show 20 + (i - 20) = i by omega] at this
    by_cases h2 : 5 ≤ i ∧ i < 16
    · have := hc (i - 5) (by omega); rwa [show 5 + (i - 5) = i by omega] at this
    · interval_cases i <;> first | omega | exact absurd hm (by decide)

theorem mask_u (w : Word) (o : Op) (h : opField w = o.code) :
    w &&& Format.mask .u = o.matchWord ↔ w.extractLsb' 20 4 = 0 ∧ w.extractLsb' 0 16 = 0 := by
  rw [mask_eq_iff w _ o h (by decide)]; simp only [extract_eq_zero]
  constructor
  · exact fun H => ⟨fun j hj => H _ (by omega) (by interval_cases j <;> rfl), fun j hj => H _ (by omega) (by interval_cases j <;> rfl)⟩
  · rintro ⟨ha, hc⟩ i hi hm
    by_cases h1 : 20 ≤ i
    · have := ha (i - 20) (by omega); rwa [show 20 + (i - 20) = i by omega] at this
    by_cases h2 : i < 16
    · have := hc i h2; rwa [Nat.zero_add] at this
    · interval_cases i <;> first | omega | exact absurd hm (by decide)

theorem mask_p (w : Word) (o : Op) (h : opField w = o.code) :
    w &&& Format.mask .p = o.matchWord ↔ w.extractLsb' 20 4 = 0 ∧ w.extractLsb' 0 12 = 0 := by
  rw [mask_eq_iff w _ o h (by decide)]; simp only [extract_eq_zero]
  constructor
  · exact fun H => ⟨fun j hj => H _ (by omega) (by interval_cases j <;> rfl), fun j hj => H _ (by omega) (by interval_cases j <;> rfl)⟩
  · rintro ⟨ha, hc⟩ i hi hm
    by_cases h1 : 20 ≤ i
    · have := ha (i - 20) (by omega); rwa [show 20 + (i - 20) = i by omega] at this
    by_cases h2 : i < 12
    · have := hc i h2; rwa [Nat.zero_add] at this
    · interval_cases i <;> first | omega | exact absurd hm (by decide)

/-- What decoding gives for a word whose OP is a row's (30_encoding.md R47). -/
theorem decode_of_op (w : Word) (o : Op) (h : opField w = o.code) :
    decode w = if w &&& o.format.mask = o.matchWord then o.build (aField w) (bField w) (cField w)
      else .error .reservedBit := by
  simp [decode, h, ofCode?_code]

/-- What decoding gives for a word whose OP is no row's (30_encoding.md R47). -/
theorem decode_of_no_op (w : Word) (h : ∀ o : Op, opField w ≠ o.code) : decode w = .error .unassignedOp := by
  have : Op.ofCode? (opField w) = none := by
    cases e : Op.ofCode? (opField w) with
    | none => rfl
    | some o => exact absurd ((ofCode?_eq_some _ o).1 e).symm (h o)
  simp [decode, this]

end Sys2Proof
end

