-- ==== Sys2Proof/Laws/State.lean ====
section
/-! SUPPORT. One lemma per field per update of the state, so that no later proof unfolds a record update, and the read
after write laws of the two register files. -/

namespace Sys2Proof.Machine

@[simp] theorem setReg_raw (s : State) (r : Reg) (v : Word) : (s.setReg r v).raw = s.raw := rfl
@[simp] theorem setReg_cal (s : State) (r : Reg) (v : Word) : (s.setReg r v).cal = s.cal := rfl
@[simp] theorem setReg_tfine (s : State) (r : Reg) (v : Word) : (s.setReg r v).tfine = s.tfine := rfl
@[simp] theorem setReg_rdT100 (s : State) (r : Reg) (v : Word) : (s.setReg r v).rdT100 = s.rdT100 := rfl
@[simp] theorem setReg_rdRh10 (s : State) (r : Reg) (v : Word) : (s.setReg r v).rdRh10 = s.rdRh10 := rfl
@[simp] theorem setReg_rdPa (s : State) (r : Reg) (v : Word) : (s.setReg r v).rdPa = s.rdPa := rfl
@[simp] theorem setReg_rdTpint (s : State) (r : Reg) (v : Word) : (s.setReg r v).rdTpint = s.rdTpint := rfl
@[simp] theorem setReg_rdTpext (s : State) (r : Reg) (v : Word) : (s.setReg r v).rdTpext = s.rdTpext := rfl
@[simp] theorem setReg_rdLux (s : State) (r : Reg) (v : Word) : (s.setReg r v).rdLux = s.rdLux := rfl
@[simp] theorem setReg_status (s : State) (r : Reg) (v : Word) : (s.setReg r v).status = s.status := rfl
@[simp] theorem setReg_einfo (s : State) (r : Reg) (v : Word) : (s.setReg r v).einfo = s.einfo := rfl
@[simp] theorem setReg_pending (s : State) (r : Reg) (v : Word) : (s.setReg r v).pending = s.pending := rfl
@[simp] theorem setReg_readData (s : State) (r : Reg) (v : Word) : (s.setReg r v).readData = s.readData := rfl

@[simp] theorem setRaw_x (s : State) (k : BitVec 3) (v : Byte) : (s.setRaw k v).x = s.x := rfl
@[simp] theorem setRaw_cal (s : State) (k : BitVec 3) (v : Byte) : (s.setRaw k v).cal = s.cal := rfl
@[simp] theorem setRaw_tfine (s : State) (k : BitVec 3) (v : Byte) : (s.setRaw k v).tfine = s.tfine := rfl
@[simp] theorem setRaw_rdT100 (s : State) (k : BitVec 3) (v : Byte) : (s.setRaw k v).rdT100 = s.rdT100 := rfl
@[simp] theorem setRaw_rdRh10 (s : State) (k : BitVec 3) (v : Byte) : (s.setRaw k v).rdRh10 = s.rdRh10 := rfl
@[simp] theorem setRaw_rdPa (s : State) (k : BitVec 3) (v : Byte) : (s.setRaw k v).rdPa = s.rdPa := rfl
@[simp] theorem setRaw_rdTpint (s : State) (k : BitVec 3) (v : Byte) : (s.setRaw k v).rdTpint = s.rdTpint := rfl
@[simp] theorem setRaw_rdTpext (s : State) (k : BitVec 3) (v : Byte) : (s.setRaw k v).rdTpext = s.rdTpext := rfl
@[simp] theorem setRaw_rdLux (s : State) (k : BitVec 3) (v : Byte) : (s.setRaw k v).rdLux = s.rdLux := rfl
@[simp] theorem setRaw_status (s : State) (k : BitVec 3) (v : Byte) : (s.setRaw k v).status = s.status := rfl
@[simp] theorem setRaw_einfo (s : State) (k : BitVec 3) (v : Byte) : (s.setRaw k v).einfo = s.einfo := rfl
@[simp] theorem setRaw_pending (s : State) (k : BitVec 3) (v : Byte) : (s.setRaw k v).pending = s.pending := rfl
@[simp] theorem setRaw_readData (s : State) (k : BitVec 3) (v : Byte) : (s.setRaw k v).readData = s.readData := rfl

@[simp] theorem writeCal_x (s : State) (c : Coef) (v : Word) : (s.writeCal c v).x = s.x := rfl
@[simp] theorem writeCal_raw (s : State) (c : Coef) (v : Word) : (s.writeCal c v).raw = s.raw := rfl
@[simp] theorem writeCal_tfine (s : State) (c : Coef) (v : Word) : (s.writeCal c v).tfine = s.tfine := rfl
@[simp] theorem writeCal_rdT100 (s : State) (c : Coef) (v : Word) : (s.writeCal c v).rdT100 = s.rdT100 := rfl
@[simp] theorem writeCal_rdRh10 (s : State) (c : Coef) (v : Word) : (s.writeCal c v).rdRh10 = s.rdRh10 := rfl
@[simp] theorem writeCal_rdPa (s : State) (c : Coef) (v : Word) : (s.writeCal c v).rdPa = s.rdPa := rfl
@[simp] theorem writeCal_rdTpint (s : State) (c : Coef) (v : Word) : (s.writeCal c v).rdTpint = s.rdTpint := rfl
@[simp] theorem writeCal_rdTpext (s : State) (c : Coef) (v : Word) : (s.writeCal c v).rdTpext = s.rdTpext := rfl
@[simp] theorem writeCal_rdLux (s : State) (c : Coef) (v : Word) : (s.writeCal c v).rdLux = s.rdLux := rfl
@[simp] theorem writeCal_status (s : State) (c : Coef) (v : Word) : (s.writeCal c v).status = s.status := rfl
@[simp] theorem writeCal_einfo (s : State) (c : Coef) (v : Word) : (s.writeCal c v).einfo = s.einfo := rfl
@[simp] theorem writeCal_pending (s : State) (c : Coef) (v : Word) : (s.writeCal c v).pending = s.pending := rfl
@[simp] theorem writeCal_readData (s : State) (c : Coef) (v : Word) : (s.writeCal c v).readData = s.readData := rfl

@[simp] theorem clearException_x (s : State) : (s.clearException).x = s.x := rfl
@[simp] theorem clearException_raw (s : State) : (s.clearException).raw = s.raw := rfl
@[simp] theorem clearException_cal (s : State) : (s.clearException).cal = s.cal := rfl
@[simp] theorem clearException_tfine (s : State) : (s.clearException).tfine = s.tfine := rfl
@[simp] theorem clearException_rdT100 (s : State) : (s.clearException).rdT100 = s.rdT100 := rfl
@[simp] theorem clearException_rdRh10 (s : State) : (s.clearException).rdRh10 = s.rdRh10 := rfl
@[simp] theorem clearException_rdPa (s : State) : (s.clearException).rdPa = s.rdPa := rfl
@[simp] theorem clearException_rdTpint (s : State) : (s.clearException).rdTpint = s.rdTpint := rfl
@[simp] theorem clearException_rdTpext (s : State) : (s.clearException).rdTpext = s.rdTpext := rfl
@[simp] theorem clearException_rdLux (s : State) : (s.clearException).rdLux = s.rdLux := rfl
@[simp] theorem clearException_pending (s : State) : (s.clearException).pending = s.pending := rfl
@[simp] theorem clearException_readData (s : State) : (s.clearException).readData = s.readData := rfl

@[simp] theorem writeCal_cal (s : State) (c : Coef) (v : Word) : (s.writeCal c v).cal = s.cal.write c v := rfl
@[simp] theorem clearException_einfo (s : State) : s.clearException.einfo = 0 := rfl
@[simp] theorem clearException_status (s : State) :
    s.clearException.status = { s.status with err := false, eovf := false, ecode := 0 } := rfl
@[simp] theorem resetBlock_x (s : State) : s.resetBlock.x = State.reset.x := rfl
@[simp] theorem resetBlock_raw (s : State) : s.resetBlock.raw = State.reset.raw := rfl
@[simp] theorem resetBlock_cal (s : State) : s.resetBlock.cal = State.reset.cal := rfl
@[simp] theorem resetBlock_tfine (s : State) : s.resetBlock.tfine = State.reset.tfine := rfl
@[simp] theorem resetBlock_rdT100 (s : State) : s.resetBlock.rdT100 = State.reset.rdT100 := rfl
@[simp] theorem resetBlock_rdRh10 (s : State) : s.resetBlock.rdRh10 = State.reset.rdRh10 := rfl
@[simp] theorem resetBlock_rdPa (s : State) : s.resetBlock.rdPa = State.reset.rdPa := rfl
@[simp] theorem resetBlock_rdTpint (s : State) : s.resetBlock.rdTpint = State.reset.rdTpint := rfl
@[simp] theorem resetBlock_rdTpext (s : State) : s.resetBlock.rdTpext = State.reset.rdTpext := rfl
@[simp] theorem resetBlock_rdLux (s : State) : s.resetBlock.rdLux = State.reset.rdLux := rfl
@[simp] theorem resetBlock_status (s : State) : s.resetBlock.status = State.reset.status := rfl
@[simp] theorem resetBlock_einfo (s : State) : s.resetBlock.einfo = State.reset.einfo := rfl
@[simp] theorem resetBlock_pending (s : State) : s.resetBlock.pending = s.pending := rfl
@[simp] theorem resetBlock_readData (s : State) : s.resetBlock.readData = s.readData := rfl

@[simp] theorem capture_x (s : State) (e : Cause) (w : Word) : (s.capture e w).x = s.x := by
  unfold State.capture; split <;> rfl
@[simp] theorem capture_raw (s : State) (e : Cause) (w : Word) : (s.capture e w).raw = s.raw := by
  unfold State.capture; split <;> rfl
@[simp] theorem capture_cal (s : State) (e : Cause) (w : Word) : (s.capture e w).cal = s.cal := by
  unfold State.capture; split <;> rfl
@[simp] theorem capture_tfine (s : State) (e : Cause) (w : Word) : (s.capture e w).tfine = s.tfine := by
  unfold State.capture; split <;> rfl
@[simp] theorem capture_rdT100 (s : State) (e : Cause) (w : Word) : (s.capture e w).rdT100 = s.rdT100 := by
  unfold State.capture; split <;> rfl
@[simp] theorem capture_rdRh10 (s : State) (e : Cause) (w : Word) : (s.capture e w).rdRh10 = s.rdRh10 := by
  unfold State.capture; split <;> rfl
@[simp] theorem capture_rdPa (s : State) (e : Cause) (w : Word) : (s.capture e w).rdPa = s.rdPa := by
  unfold State.capture; split <;> rfl
@[simp] theorem capture_rdTpint (s : State) (e : Cause) (w : Word) : (s.capture e w).rdTpint = s.rdTpint := by
  unfold State.capture; split <;> rfl
@[simp] theorem capture_rdTpext (s : State) (e : Cause) (w : Word) : (s.capture e w).rdTpext = s.rdTpext := by
  unfold State.capture; split <;> rfl
@[simp] theorem capture_rdLux (s : State) (e : Cause) (w : Word) : (s.capture e w).rdLux = s.rdLux := by
  unfold State.capture; split <;> rfl
@[simp] theorem capture_pending (s : State) (e : Cause) (w : Word) : (s.capture e w).pending = s.pending := by
  unfold State.capture; split <;> rfl
@[simp] theorem capture_readData (s : State) (e : Cause) (w : Word) : (s.capture e w).readData = s.readData := by
  unfold State.capture; split <;> rfl

/-- The first exception is recorded (60_exceptions.md R92). -/
theorem capture_first (s : State) (e : Cause) (w : Word) (h : s.status.err = false) :
    s.capture e w = { s with status := { s.status with err := true, ecode := e.code }, einfo := w } := by
  simp [State.capture, h]

/-- A further exception sets EOVF only (60_exceptions.md R92). -/
theorem capture_further (s : State) (e : Cause) (w : Word) (h : s.status.err = true) :
    s.capture e w = { s with status := { s.status with eovf := true } } := by
  simp [State.capture, h]

@[simp] theorem capture_status_cal (s : State) (e : Cause) (w : Word) : (s.capture e w).status.cal = s.status.cal := by
  unfold State.capture; split <;> rfl
@[simp] theorem capture_status_tfv (s : State) (e : Cause) (w : Word) : (s.capture e w).status.tfv = s.status.tfv := by
  unfold State.capture; split <;> rfl
@[simp] theorem capture_status_envv (s : State) (e : Cause) (w : Word) : (s.capture e w).status.envv = s.status.envv := by
  unfold State.capture; split <;> rfl
@[simp] theorem capture_status_tpv (s : State) (e : Cause) (w : Word) : (s.capture e w).status.tpv = s.status.tpv := by
  unfold State.capture; split <;> rfl
@[simp] theorem capture_status_luxv (s : State) (e : Cause) (w : Word) : (s.capture e w).status.luxv = s.status.luxv := by
  unfold State.capture; split <;> rfl
@[simp] theorem capture_status_pzero (s : State) (e : Cause) (w : Word) : (s.capture e w).status.pzero = s.status.pzero := by
  unfold State.capture; split <;> rfl
@[simp] theorem capture_status_hclo (s : State) (e : Cause) (w : Word) : (s.capture e w).status.hclo = s.status.hclo := by
  unfold State.capture; split <;> rfl
@[simp] theorem capture_status_hchi (s : State) (e : Cause) (w : Word) : (s.capture e w).status.hchi = s.status.hchi := by
  unfold State.capture; split <;> rfl

@[simp] theorem reg_setReg_same (s : State) (r : Reg) (v : Word) : (s.setReg r v).reg r = v := by
  simp [State.setReg, State.reg]

theorem reg_setReg_ne (s : State) (r r' : Reg) (v : Word) (h : r' ≠ r) : (s.setReg r v).reg r' = s.reg r' := by
  have : r.toNat ≠ r'.toNat := fun e => h (BitVec.eq_of_toNat_eq e.symm)
  simp [State.setReg, State.reg, this]

@[simp] theorem rawByte_setRaw_same (s : State) (k : BitVec 3) (v : Byte) : (s.setRaw k v).rawByte k = v := by
  simp [State.setRaw, State.rawByte]

theorem rawByte_setRaw_ne (s : State) (k k' : BitVec 3) (v : Byte) (h : k' ≠ k) :
    (s.setRaw k v).rawByte k' = s.rawByte k' := by
  have : k.toNat ≠ k'.toNat := fun e => h (BitVec.eq_of_toNat_eq e.symm)
  simp [State.setRaw, State.rawByte, this]

@[simp] theorem setRaw_reg (s : State) (k : BitVec 3) (v : Byte) (r : Reg) : (s.setRaw k v).reg r = s.reg r := rfl
@[simp] theorem writeCal_reg (s : State) (c : Coef) (v : Word) (r : Reg) : (s.writeCal c v).reg r = s.reg r := rfl
@[simp] theorem clearException_reg (s : State) (r : Reg) : (s.clearException).reg r = s.reg r := rfl
@[simp] theorem capture_reg (s : State) (e : Cause) (w : Word) (r : Reg) : (s.capture e w).reg r = s.reg r := by
  unfold State.capture; split <;> rfl
@[simp] theorem setReg_rawByte (s : State) (r : Reg) (v : Word) (k : BitVec 3) : (s.setReg r v).rawByte k = s.rawByte k := rfl
@[simp] theorem setReg_calv (s : State) (r : Reg) (v : Word) : (s.setReg r v).calv = s.calv := rfl

end Sys2Proof.Machine
end

