-- ==== Sys2Proof/Laws/Exec.lean ====
section
/-! SUPPORT. What each shared operation behind the commands can do, said once: the stage commands' writes field by field,
the four stage commands by case, the index lookups, the frames of a register write and of a coefficient write, and what a step can do. -/

namespace Sys2Proof.Machine

/-! ## Lookups -/

/-- Every index up to 17 names a coefficient, the one with that number (10_state.md R15). -/
theorem ofIndex?_of_le (k : Nat) (h : k ≤ 17) : ∃ c, Coef.ofIndex? k = some c ∧ c.index = k := by
  interval_cases k <;> exact ⟨_, rfl, rfl⟩

/-- No index over 17 names one (30_encoding.md R45). -/
theorem ofIndex?_of_gt (k : Nat) (h : 18 ≤ k) : Coef.ofIndex? k = none := by
  unfold Coef.ofIndex?; exact List.getElem?_eq_none (by simpa [Coef.all] using h)

theorem ofIndex?_index (c : Coef) : Coef.ofIndex? c.index = some c := by cases c <;> rfl

/-- No selector over 7 names a register (30_encoding.md R45). -/
theorem selected?_of_gt (s : State) (sel : BitVec 4) (h : 8 ≤ sel.toNat) : s.selected? sel = none := by
  have := sel.isLt
  unfold State.selected?; split <;> first | omega | rfl

/-- What a write of a coefficient makes of every coefficient's value (10_state.md R16, R17). -/
theorem value_write (t : Trim) (c c' : Coef) (v : Word) (b : Bool) :
    (t.write c v).value b c' =
      if c' = c then (if c.signed b then (v.setWidth c.width).toInt else ((v.setWidth c.width).toNat : Int))
      else t.value b c' := by
  cases c <;> cases c' <;> rfl

/-! ## Frames -/

theorem writesReg_setReg (s : State) (rd : Reg) (v : Word) : WritesReg s (s.setReg rd v) rd v :=
  ⟨reg_setReg_same .., fun _ h => reg_setReg_ne _ _ _ _ h, rfl⟩

theorem onlyReg_setReg (s : State) (rd : Reg) (v : Word) : OnlyReg s (s.setReg rd v) rd := by
  unfold OnlyReg; rw [reg_setReg_same]; exact writesReg_setReg ..

theorem writesCoef_writeCal (s : State) (c : Coef) (v : Word) :
    WritesCoef s (s.writeCal c v) c v c.width fun b => c.signed b := by
  refine ⟨fun b => ?_, fun b c' h => ?_, rfl⟩
  · rw [writeCal_cal, value_write, if_pos rfl]
  · rw [writeCal_cal, value_write, if_neg h]

/-! ## The stage commands' writes, field by field -/

@[simp] theorem storeTemp_raw (s : State) (rd : Reg) (r : TempResult) : (s.storeTemp rd r).raw = s.raw := rfl
@[simp] theorem storeTemp_cal (s : State) (rd : Reg) (r : TempResult) : (s.storeTemp rd r).cal = s.cal := rfl
@[simp] theorem storeTemp_tfine (s : State) (rd : Reg) (r : TempResult) :
    (s.storeTemp rd r).tfine = wordOf r.tf := rfl
@[simp] theorem storeTemp_rdT100 (s : State) (rd : Reg) (r : TempResult) : (s.storeTemp rd r).rdT100 = s.rdT100 := rfl
@[simp] theorem storeTemp_rdRh10 (s : State) (rd : Reg) (r : TempResult) : (s.storeTemp rd r).rdRh10 = s.rdRh10 := rfl
@[simp] theorem storeTemp_rdPa (s : State) (rd : Reg) (r : TempResult) : (s.storeTemp rd r).rdPa = s.rdPa := rfl
@[simp] theorem storeTemp_rdTpint (s : State) (rd : Reg) (r : TempResult) : (s.storeTemp rd r).rdTpint = s.rdTpint := rfl
@[simp] theorem storeTemp_rdTpext (s : State) (rd : Reg) (r : TempResult) : (s.storeTemp rd r).rdTpext = s.rdTpext := rfl
@[simp] theorem storeTemp_rdLux (s : State) (rd : Reg) (r : TempResult) : (s.storeTemp rd r).rdLux = s.rdLux := rfl
@[simp] theorem storeTemp_status (s : State) (rd : Reg) (r : TempResult) :
    (s.storeTemp rd r).status = { s.status with tfv := true } := rfl
@[simp] theorem storeTemp_einfo (s : State) (rd : Reg) (r : TempResult) : (s.storeTemp rd r).einfo = s.einfo := rfl
@[simp] theorem storeTemp_pending (s : State) (rd : Reg) (r : TempResult) : (s.storeTemp rd r).pending = s.pending := rfl
@[simp] theorem storeTemp_readData (s : State) (rd : Reg) (r : TempResult) : (s.storeTemp rd r).readData = s.readData := rfl

@[simp] theorem storeHum_raw (s : State) (rd : Reg) (r : HumResult) : (s.storeHum rd r).raw = s.raw := rfl
@[simp] theorem storeHum_cal (s : State) (rd : Reg) (r : HumResult) : (s.storeHum rd r).cal = s.cal := rfl
@[simp] theorem storeHum_tfine (s : State) (rd : Reg) (r : HumResult) : (s.storeHum rd r).tfine = s.tfine := rfl
@[simp] theorem storeHum_rdT100 (s : State) (rd : Reg) (r : HumResult) : (s.storeHum rd r).rdT100 = s.rdT100 := rfl
@[simp] theorem storeHum_rdRh10 (s : State) (rd : Reg) (r : HumResult) : (s.storeHum rd r).rdRh10 = s.rdRh10 := rfl
@[simp] theorem storeHum_rdPa (s : State) (rd : Reg) (r : HumResult) : (s.storeHum rd r).rdPa = s.rdPa := rfl
@[simp] theorem storeHum_rdTpint (s : State) (rd : Reg) (r : HumResult) : (s.storeHum rd r).rdTpint = s.rdTpint := rfl
@[simp] theorem storeHum_rdTpext (s : State) (rd : Reg) (r : HumResult) : (s.storeHum rd r).rdTpext = s.rdTpext := rfl
@[simp] theorem storeHum_rdLux (s : State) (rd : Reg) (r : HumResult) : (s.storeHum rd r).rdLux = s.rdLux := rfl
@[simp] theorem storeHum_status (s : State) (rd : Reg) (r : HumResult) :
    (s.storeHum rd r).status = s.status.withHumidityFlags r.lo r.hi := rfl
@[simp] theorem storeHum_einfo (s : State) (rd : Reg) (r : HumResult) : (s.storeHum rd r).einfo = s.einfo := rfl
@[simp] theorem storeHum_pending (s : State) (rd : Reg) (r : HumResult) : (s.storeHum rd r).pending = s.pending := rfl
@[simp] theorem storeHum_readData (s : State) (rd : Reg) (r : HumResult) : (s.storeHum rd r).readData = s.readData := rfl

@[simp] theorem storePres_raw (s : State) (rd : Reg) (r : PresResult) : (s.storePres rd r).raw = s.raw := rfl
@[simp] theorem storePres_cal (s : State) (rd : Reg) (r : PresResult) : (s.storePres rd r).cal = s.cal := rfl
@[simp] theorem storePres_tfine (s : State) (rd : Reg) (r : PresResult) : (s.storePres rd r).tfine = s.tfine := rfl
@[simp] theorem storePres_rdT100 (s : State) (rd : Reg) (r : PresResult) : (s.storePres rd r).rdT100 = s.rdT100 := rfl
@[simp] theorem storePres_rdRh10 (s : State) (rd : Reg) (r : PresResult) : (s.storePres rd r).rdRh10 = s.rdRh10 := rfl
@[simp] theorem storePres_rdPa (s : State) (rd : Reg) (r : PresResult) : (s.storePres rd r).rdPa = s.rdPa := rfl
@[simp] theorem storePres_rdTpint (s : State) (rd : Reg) (r : PresResult) : (s.storePres rd r).rdTpint = s.rdTpint := rfl
@[simp] theorem storePres_rdTpext (s : State) (rd : Reg) (r : PresResult) : (s.storePres rd r).rdTpext = s.rdTpext := rfl
@[simp] theorem storePres_rdLux (s : State) (rd : Reg) (r : PresResult) : (s.storePres rd r).rdLux = s.rdLux := rfl
@[simp] theorem storePres_status (s : State) (rd : Reg) (r : PresResult) :
    (s.storePres rd r).status = s.status.withPressureFlag r.zero := rfl
@[simp] theorem storePres_einfo (s : State) (rd : Reg) (r : PresResult) : (s.storePres rd r).einfo = s.einfo := rfl
@[simp] theorem storePres_pending (s : State) (rd : Reg) (r : PresResult) : (s.storePres rd r).pending = s.pending := rfl
@[simp] theorem storePres_readData (s : State) (rd : Reg) (r : PresResult) : (s.storePres rd r).readData = s.readData := rfl

@[simp] theorem storeSample_x (s : State) (t : TempResult) (h : HumResult) (p : PresResult) : (s.storeSample t h p).x = s.x := rfl
@[simp] theorem storeSample_raw (s : State) (t : TempResult) (h : HumResult) (p : PresResult) : (s.storeSample t h p).raw = s.raw := rfl
@[simp] theorem storeSample_cal (s : State) (t : TempResult) (h : HumResult) (p : PresResult) : (s.storeSample t h p).cal = s.cal := rfl
@[simp] theorem storeSample_tfine (s : State) (t : TempResult) (h : HumResult) (p : PresResult) :
    (s.storeSample t h p).tfine = wordOf t.tf := rfl
@[simp] theorem storeSample_rdT100 (s : State) (t : TempResult) (h : HumResult) (p : PresResult) :
    (s.storeSample t h p).rdT100 = wordOf t.t100 := rfl
@[simp] theorem storeSample_rdRh10 (s : State) (t : TempResult) (h : HumResult) (p : PresResult) :
    (s.storeSample t h p).rdRh10 = wordOf h.rh10 := rfl
@[simp] theorem storeSample_rdPa (s : State) (t : TempResult) (h : HumResult) (p : PresResult) :
    (s.storeSample t h p).rdPa = wordOf p.pa := rfl
@[simp] theorem storeSample_rdTpint (s : State) (t : TempResult) (h : HumResult) (p : PresResult) : (s.storeSample t h p).rdTpint = s.rdTpint := rfl
@[simp] theorem storeSample_rdTpext (s : State) (t : TempResult) (h : HumResult) (p : PresResult) : (s.storeSample t h p).rdTpext = s.rdTpext := rfl
@[simp] theorem storeSample_rdLux (s : State) (t : TempResult) (h : HumResult) (p : PresResult) : (s.storeSample t h p).rdLux = s.rdLux := rfl
@[simp] theorem storeSample_status (s : State) (t : TempResult) (h : HumResult) (p : PresResult) :
    (s.storeSample t h p).status = { (s.status.withHumidityFlags h.lo h.hi).withPressureFlag p.zero with tfv := true, envv := true } := rfl
@[simp] theorem storeSample_einfo (s : State) (t : TempResult) (h : HumResult) (p : PresResult) : (s.storeSample t h p).einfo = s.einfo := rfl
@[simp] theorem storeSample_pending (s : State) (t : TempResult) (h : HumResult) (p : PresResult) : (s.storeSample t h p).pending = s.pending := rfl
@[simp] theorem storeSample_readData (s : State) (t : TempResult) (h : HumResult) (p : PresResult) : (s.storeSample t h p).readData = s.readData := rfl

@[simp] theorem storeTemp_reg_same (s : State) (rd : Reg) (r : TempResult) : (s.storeTemp rd r).reg rd = wordOf r.t100 :=
  reg_setReg_same ..

theorem storeTemp_reg_ne (s : State) (rd r' : Reg) (r : TempResult) (h : r' ≠ rd) : (s.storeTemp rd r).reg r' = s.reg r' :=
  reg_setReg_ne _ _ _ _ h

@[simp] theorem storeHum_reg_same (s : State) (rd : Reg) (r : HumResult) : (s.storeHum rd r).reg rd = wordOf r.rh10 :=
  reg_setReg_same ..

theorem storeHum_reg_ne (s : State) (rd r' : Reg) (r : HumResult) (h : r' ≠ rd) : (s.storeHum rd r).reg r' = s.reg r' :=
  reg_setReg_ne _ _ _ _ h

@[simp] theorem storePres_reg_same (s : State) (rd : Reg) (r : PresResult) : (s.storePres rd r).reg rd = wordOf r.pa :=
  reg_setReg_same ..

theorem storePres_reg_ne (s : State) (rd r' : Reg) (r : PresResult) (h : r' ≠ rd) : (s.storePres rd r).reg r' = s.reg r' :=
  reg_setReg_ne _ _ _ _ h

/-! ## The stage commands by case (44_compensation.md R85 to R88) -/

theorem exec_compt_sealed (rd rs : Reg) (s : State) (h : s.status.cal = true) :
    exec (.compt rd rs) s = .next (s.storeTemp rd (compT s.calv (s.regS rs))) := if_pos h

theorem exec_comph_ready (rd rs : Reg) (s : State) (h : s.status.cal = true) (h' : s.status.tfv = true) :
    exec (.comph rd rs) s = .next (s.storeHum rd (compH s.calv (s.regS rs) s.tfine.toInt)) :=
  (if_pos h).trans (if_pos h')

theorem exec_compp_ready (rd rs : Reg) (s : State) (h : s.status.cal = true) (h' : s.status.tfv = true) :
    exec (.compp rd rs) s = .next (s.storePres rd (compP s.calv (s.regS rs) s.tfine.toInt)) :=
  (if_pos h).trans (if_pos h')

theorem exec_envsample_sealed (s : State) (h : s.status.cal = true) :
    exec .envsample s =
      .next (s.storeSample s.envTemp (compH s.calv s.burstH s.envTemp.tf) (compP s.calv s.burstP s.envTemp.tf)) := if_pos h

/-- What COMPT can do. -/
theorem exec_compt_cases (rd rs : Reg) (s : State) :
    (s.status.cal = true ∧ ∃ r, r = compT s.calv (s.regS rs) ∧ exec (.compt rd rs) s = .next (s.storeTemp rd r)) ∨
    (s.status.cal = false ∧ exec (.compt rd rs) s = .next (s.capture .nocal (encode (.compt rd rs)))) := by
  cases h : s.status.cal
  · exact .inr ⟨rfl, if_neg (by simp [h])⟩
  · exact .inl ⟨rfl, _, rfl, exec_compt_sealed rd rs s h⟩

/-- What COMPH can do. -/
theorem exec_comph_cases (rd rs : Reg) (s : State) :
    (s.status.cal = true ∧ s.status.tfv = true ∧
      ∃ r, r = compH s.calv (s.regS rs) s.tfine.toInt ∧ exec (.comph rd rs) s = .next (s.storeHum rd r)) ∨
    (s.status.cal = false ∧ exec (.comph rd rs) s = .next (s.capture .nocal (encode (.comph rd rs)))) ∨
    (s.status.cal = true ∧ s.status.tfv = false ∧
      exec (.comph rd rs) s = .next (s.capture .notfine (encode (.comph rd rs)))) := by
  cases h : s.status.cal
  · exact .inr (.inl ⟨rfl, if_neg (by simp [h])⟩)
  · cases h' : s.status.tfv
    · exact .inr (.inr ⟨rfl, rfl, (if_pos h).trans (if_neg (by simp [h']))⟩)
    · exact .inl ⟨rfl, rfl, _, rfl, exec_comph_ready rd rs s h h'⟩

/-- What COMPP can do. -/
theorem exec_compp_cases (rd rs : Reg) (s : State) :
    (s.status.cal = true ∧ s.status.tfv = true ∧
      ∃ r, r = compP s.calv (s.regS rs) s.tfine.toInt ∧ exec (.compp rd rs) s = .next (s.storePres rd r)) ∨
    (s.status.cal = false ∧ exec (.compp rd rs) s = .next (s.capture .nocal (encode (.compp rd rs)))) ∨
    (s.status.cal = true ∧ s.status.tfv = false ∧
      exec (.compp rd rs) s = .next (s.capture .notfine (encode (.compp rd rs)))) := by
  cases h : s.status.cal
  · exact .inr (.inl ⟨rfl, if_neg (by simp [h])⟩)
  · cases h' : s.status.tfv
    · exact .inr (.inr ⟨rfl, rfl, (if_pos h).trans (if_neg (by simp [h']))⟩)
    · exact .inl ⟨rfl, rfl, _, rfl, exec_compp_ready rd rs s h h'⟩

/-- What ENVSAMPLE can do. -/
theorem exec_envsample_cases (s : State) :
    (s.status.cal = true ∧ ∃ t h p, t = s.envTemp ∧ h = compH s.calv s.burstH t.tf ∧ p = compP s.calv s.burstP t.tf ∧
      exec .envsample s = .next (s.storeSample t h p)) ∨
    (s.status.cal = false ∧ exec .envsample s = .next (s.capture .nocal (encode .envsample))) := by
  cases h : s.status.cal
  · exact .inr ⟨rfl, if_neg (by simp [h])⟩
  · exact .inl ⟨rfl, _, _, _, rfl, rfl, rfl, exec_envsample_sealed s h⟩

/-- An accepted access is 4 bytes wide and reaches the register of its address (20_memory.md R30). -/
theorem accessReg?_some (a : WindowAddr) (n : Nat) (r : WindowReg) (h : accessReg? a n = some r) :
    n = 4 ∧ windowReg? a = some r := by
  unfold accessReg? at h; split at h <;> simp_all

/-- What executing a word can do: run its command, or raise ILLEGAL_CMD (30_encoding.md R47). -/
theorem executeWord_cases (w : Word) (s : State) :
    (∃ i, decode w = .ok i ∧ executeWord w s = exec i s) ∨
    (∃ e, decode w = .error e ∧ executeWord w s = .next (s.capture .illegalCmd w)) := by
  cases h : decode w with
  | ok i => exact .inl ⟨i, rfl, by simp [executeWord, h]⟩
  | error e => exact .inr ⟨e, rfl, by simp [executeWord, h]⟩

/-- What a step can do: keep the state with no access to come, or serve the next one (60_exceptions.md R102). -/
theorem step_cases (s t : State) (h : step s = .next t) :
    (s.pending = [] ∧ t = s) ∨
    ∃ e rest, s.pending = e :: rest ∧ serve e { s with pending := rest } = .next t := by
  unfold step serveNext at h
  cases hp : s.pending with
  | nil => rw [hp] at h; cases h; exact .inl ⟨rfl, rfl⟩
  | cons e rest => rw [hp] at h; exact .inr ⟨e, rest, rfl, h⟩

/-- CMD and CTRL, the registers whose writes reach beyond themselves, are found at their own addresses only
(20_memory.md R29, R32). -/
theorem windowReg?_cmd_ctrl (a : WindowAddr) :
    (windowReg? a = some .cmd → a = 0x010#9) ∧ (windowReg? a = some .ctrl → a = 0x004#9) := by
  have all : ∀ i : Fin 512, (windowReg? (BitVec.ofFin i) = some .cmd → i = 0x010) ∧
      (windowReg? (BitVec.ofFin i) = some .ctrl → i = 0x004) := by decide +kernel
  exact ⟨fun h => congrArg BitVec.ofFin ((all a.toFin).1 h), fun h => congrArg BitVec.ofFin ((all a.toFin).2 h)⟩

/-- What a step can do to STATUS (10_state.md R23, R24): run the command of a CMD write, reset the block, or, for every
other access and with none to come, leave the valid bits and the condition flags alone. -/
theorem step_status_cases (s t : State) (h : step s = .next t) :
    (∃ i rest, Serves s i ∧ exec i { s with pending := rest } = .next t) ∨
    (ServesReset s ∧ t.status = Status.zero) ∨
    (t.status.cal = s.status.cal ∧ t.status.tfv = s.status.tfv ∧ t.status.envv = s.status.envv ∧
      t.status.tpv = s.status.tpv ∧ t.status.luxv = s.status.luxv ∧ t.status.pzero = s.status.pzero ∧
      t.status.hclo = s.status.hclo ∧ t.status.hchi = s.status.hchi) := by
  rcases step_cases s t h with ⟨-, rfl⟩ | ⟨e, rest, hp, he⟩
  · exact .inr (.inr ⟨rfl, rfl, rfl, rfl, rfl, rfl, rfl, rfl⟩)
  cases e with
  | resetSignal => cases he; exact .inr (.inl ⟨⟨rest, .inl hp⟩, rfl⟩)
  | read a n => cases he; right; right; unfold memRead; split <;> simp [State.captureAccess]
  | write a n v =>
    unfold serve memWrite at he; dsimp only at he
    split at he
    · cases he; simp [State.captureAccess]
    · rename_i r hr
      obtain ⟨rfl, hr⟩ := accessReg?_some a n r hr
      cases r <;> dsimp only at he
      case cmd =>
        rcases executeWord_cases v { s with pending := rest } with ⟨i, hd, e⟩ | ⟨-, -, e⟩ <;> rw [e] at he
        · exact .inl ⟨i, rest, ⟨v, rest, by rw [hp, (windowReg?_cmd_ctrl a).1 hr], hd⟩, he⟩
        · cases he; simp
      case ctrl =>
        by_cases hv : v.getLsbD 0 = true
        · rw [if_pos hv] at he; cases he
          exact .inr (.inl ⟨⟨rest, .inr ⟨v, by rw [hp, (windowReg?_cmd_ctrl a).2 hr], hv⟩⟩, rfl⟩)
        · rw [if_neg hv] at he; cases he; simp
      case cal => split at he <;> cases he <;> simp [State.captureAccess]
      case status => split at he <;> cases he <;> simp
      all_goals (cases he; simp [State.captureAccess])

end Sys2Proof.Machine
end

