-- ==== Sys2Proof/Laws/PerInstr.lean ====
section
/-! SUPPORT. The family of statements made per instruction: the word of every command is its row's `match` under its
row's `mask`, as 30_encoding.md R46 tabulates the two. -/

namespace Sys2Proof

/-! ## Index fields inside field C (30_encoding.md R42) -/

theorem selector_reserved (sel : BitVec 4) : (0#12 ++ sel).extractLsb' 4 12 = 0 := by revert sel; decide
theorem byteIndex_reserved (k : BitVec 3) : (0#13 ++ k).extractLsb' 3 13 = 0 := by revert k; decide
theorem coefIndex_reserved (k : BitVec 5) : (0#11 ++ k).extractLsb' 5 11 = 0 := by revert k; decide
theorem rs2_reserved (r : Reg) : (r ++ 0#12).extractLsb' 0 12 = 0 := by revert r; decide
theorem selector_field (sel : BitVec 4) : (0#12 ++ sel).extractLsb' 0 4 = sel := by revert sel; decide
theorem byteIndex_field (k : BitVec 3) : (0#13 ++ k).extractLsb' 0 3 = k := by revert k; decide
theorem coefIndex_field (k : BitVec 5) : (0#11 ++ k).extractLsb' 0 5 = k := by revert k; decide
theorem rs2_field (r : Reg) : (r ++ 0#12).extractLsb' 12 4 = r := by revert r; decide

/-! ## A packed word under its format's mask, one lemma per format -/

theorem masked_n (o : Op) : packWord o 0 0 0 &&& Format.mask .n = o.matchWord :=
  (mask_n _ o (opField_pack ..)).2 ⟨aField_pack .., bField_pack .., cField_pack ..⟩

theorem masked_i (o : Op) (rd : Reg) (imm : BitVec 16) : packWord o rd 0 imm &&& Format.mask .i = o.matchWord :=
  (mask_i _ o (opField_pack ..)).2 (bField_pack ..)

theorem masked_r (o : Op) (rd rs : Reg) : packWord o rd rs 0 &&& Format.mask .r = o.matchWord :=
  (mask_r _ o (opField_pack ..)).2 (cField_pack ..)

theorem masked_u (o : Op) (rs : Reg) : packWord o 0 rs 0 &&& Format.mask .u = o.matchWord :=
  (mask_u _ o (opField_pack ..)).2 ⟨aField_pack .., cField_pack ..⟩

theorem masked_g (o : Op) (rd : Reg) (sel : BitVec 4) :
    packWord o rd 0 (0#12 ++ sel) &&& Format.mask .g = o.matchWord :=
  (mask_g _ o (opField_pack ..)).2
    ⟨bField_pack .., by rw [← extract_cField _ 4 12 (by omega), cField_pack, selector_reserved]⟩

theorem masked_s (o : Op) (rs : Reg) (k : BitVec 3) : packWord o 0 rs (0#13 ++ k) &&& Format.mask .s = o.matchWord :=
  (mask_s _ o (opField_pack ..)).2
    ⟨aField_pack .., by rw [← extract_cField _ 3 13 (by omega), cField_pack, byteIndex_reserved]⟩

theorem masked_k (o : Op) (rs : Reg) (k : BitVec 5) : packWord o 0 rs (0#11 ++ k) &&& Format.mask .k = o.matchWord :=
  (mask_k _ o (opField_pack ..)).2
    ⟨aField_pack .., by rw [← extract_cField _ 5 11 (by omega), cField_pack, coefIndex_reserved]⟩

theorem masked_p (o : Op) (rs1 rs2 : Reg) : packWord o 0 rs1 (rs2 ++ 0#12) &&& Format.mask .p = o.matchWord :=
  (mask_p _ o (opField_pack ..)).2
    ⟨aField_pack .., by rw [← extract_cField _ 0 12 (by omega), cField_pack, rs2_reserved]⟩

/-- What decoding gives for a packed word that passes its row's mask (30_encoding.md R47). -/
theorem decode_packed (o : Op) (a b : BitVec 4) (c : BitVec 16)
    (h : packWord o a b c &&& o.format.mask = o.matchWord) : decode (packWord o a b c) = o.build a b c := by
  rw [decode_of_op _ o (opField_pack ..), if_pos h, aField_pack, bField_pack, cField_pack]

end Sys2Proof

namespace Sys2Proof.Laws

/-- The `mask` column of 30_encoding.md R46's table. -/
def rowMask : Instr → Word
  | .nop => 0xFFFFFFFF#32
  | .ldi _ _ => 0xFF0F0000#32
  | .ldih _ _ => 0xFF0F0000#32
  | .getr _ _ => 0xFF0FFFF0#32
  | .setraw _ _ => 0xFFF0FFF8#32
  | .wcal _ _ => 0xFFF0FFE0#32
  | .calseal => 0xFFFFFFFF#32
  | .calopen => 0xFFFFFFFF#32
  | .unpk20 _ _ => 0xFF00FFFF#32
  | .unpk16 _ _ => 0xFF00FFFF#32
  | .unpkh45 _ => 0xFFF0FFFF#32
  | .fld14 _ _ => 0xFF00FFFF#32
  | .lexp _ _ => 0xFF00FFFF#32
  | .lmant _ _ => 0xFF00FFFF#32
  | .tpdec _ _ => 0xFF00FFFF#32
  | .t32t10 _ _ => 0xFF00FFFF#32
  | .c10f10 _ _ => 0xFF00FFFF#32
  | .luxdec _ _ => 0xFF00FFFF#32
  | .c100f10 _ _ => 0xFF00FFFF#32
  | .painhg _ _ => 0xFF00FFFF#32
  | .tpsample _ _ => 0xFFF00FFF#32
  | .luxsample _ => 0xFFF0FFFF#32
  | .compt _ _ => 0xFF00FFFF#32
  | .comph _ _ => 0xFF00FFFF#32
  | .compp _ _ => 0xFF00FFFF#32
  | .envsample => 0xFFFFFFFF#32

/-- The `match` column of 30_encoding.md R46's table. -/
def rowMatch : Instr → Word
  | .nop => 0x00000000#32
  | .ldi _ _ => 0x01000000#32
  | .ldih _ _ => 0x02000000#32
  | .getr _ _ => 0x03000000#32
  | .setraw _ _ => 0x04000000#32
  | .wcal _ _ => 0x05000000#32
  | .calseal => 0x06000000#32
  | .calopen => 0x07000000#32
  | .unpk20 _ _ => 0x10000000#32
  | .unpk16 _ _ => 0x11000000#32
  | .unpkh45 _ => 0x12000000#32
  | .fld14 _ _ => 0x13000000#32
  | .lexp _ _ => 0x14000000#32
  | .lmant _ _ => 0x15000000#32
  | .tpdec _ _ => 0x20000000#32
  | .t32t10 _ _ => 0x21000000#32
  | .c10f10 _ _ => 0x22000000#32
  | .luxdec _ _ => 0x23000000#32
  | .c100f10 _ _ => 0x24000000#32
  | .painhg _ _ => 0x25000000#32
  | .tpsample _ _ => 0x26000000#32
  | .luxsample _ => 0x27000000#32
  | .compt _ _ => 0x30000000#32
  | .comph _ _ => 0x31000000#32
  | .compp _ _ => 0x32000000#32
  | .envsample => 0x33000000#32

/-- The word of `i` is its row's `match` under its row's `mask` (30_encoding.md R46). -/
def EncodesInItsRow.Statement (i : Instr) : Prop := encode i &&& rowMask i = rowMatch i

theorem EncodesInItsRow.nop : EncodesInItsRow.Statement .nop := masked_n .nop
theorem EncodesInItsRow.ldi (rd : Reg) (imm : BitVec 16) : EncodesInItsRow.Statement (.ldi rd imm) := masked_i .ldi rd imm
theorem EncodesInItsRow.ldih (rd : Reg) (imm : BitVec 16) : EncodesInItsRow.Statement (.ldih rd imm) := masked_i .ldih rd imm
theorem EncodesInItsRow.getr (rd : Reg) (sel : BitVec 4) : EncodesInItsRow.Statement (.getr rd sel) := masked_g .getr rd sel
theorem EncodesInItsRow.setraw (k : BitVec 3) (rs : Reg) : EncodesInItsRow.Statement (.setraw k rs) := masked_s .setraw rs k
theorem EncodesInItsRow.wcal (k : BitVec 5) (rs : Reg) : EncodesInItsRow.Statement (.wcal k rs) := masked_k .wcal rs k
theorem EncodesInItsRow.calseal : EncodesInItsRow.Statement .calseal := masked_n .calseal
theorem EncodesInItsRow.calopen : EncodesInItsRow.Statement .calopen := masked_n .calopen
theorem EncodesInItsRow.unpk20 (rd rs : Reg) : EncodesInItsRow.Statement (.unpk20 rd rs) := masked_r .unpk20 rd rs
theorem EncodesInItsRow.unpk16 (rd rs : Reg) : EncodesInItsRow.Statement (.unpk16 rd rs) := masked_r .unpk16 rd rs
theorem EncodesInItsRow.unpkh45 (rs : Reg) : EncodesInItsRow.Statement (.unpkh45 rs) := masked_u .unpkh45 rs
theorem EncodesInItsRow.fld14 (rd rs : Reg) : EncodesInItsRow.Statement (.fld14 rd rs) := masked_r .fld14 rd rs
theorem EncodesInItsRow.lexp (rd rs : Reg) : EncodesInItsRow.Statement (.lexp rd rs) := masked_r .lexp rd rs
theorem EncodesInItsRow.lmant (rd rs : Reg) : EncodesInItsRow.Statement (.lmant rd rs) := masked_r .lmant rd rs
theorem EncodesInItsRow.tpdec (rd rs : Reg) : EncodesInItsRow.Statement (.tpdec rd rs) := masked_r .tpdec rd rs
theorem EncodesInItsRow.t32t10 (rd rs : Reg) : EncodesInItsRow.Statement (.t32t10 rd rs) := masked_r .t32t10 rd rs
theorem EncodesInItsRow.c10f10 (rd rs : Reg) : EncodesInItsRow.Statement (.c10f10 rd rs) := masked_r .c10f10 rd rs
theorem EncodesInItsRow.luxdec (rd rs : Reg) : EncodesInItsRow.Statement (.luxdec rd rs) := masked_r .luxdec rd rs
theorem EncodesInItsRow.c100f10 (rd rs : Reg) : EncodesInItsRow.Statement (.c100f10 rd rs) := masked_r .c100f10 rd rs
theorem EncodesInItsRow.painhg (rd rs : Reg) : EncodesInItsRow.Statement (.painhg rd rs) := masked_r .painhg rd rs
theorem EncodesInItsRow.tpsample (rs1 rs2 : Reg) : EncodesInItsRow.Statement (.tpsample rs1 rs2) := masked_p .tpsample rs1 rs2
theorem EncodesInItsRow.luxsample (rs : Reg) : EncodesInItsRow.Statement (.luxsample rs) := masked_u .luxsample rs
theorem EncodesInItsRow.compt (rd rs : Reg) : EncodesInItsRow.Statement (.compt rd rs) := masked_r .compt rd rs
theorem EncodesInItsRow.comph (rd rs : Reg) : EncodesInItsRow.Statement (.comph rd rs) := masked_r .comph rd rs
theorem EncodesInItsRow.compp (rd rs : Reg) : EncodesInItsRow.Statement (.compp rd rs) := masked_r .compp rd rs
theorem EncodesInItsRow.envsample : EncodesInItsRow.Statement .envsample := masked_n .envsample

end Sys2Proof.Laws
end

