-- ==== Sys2Proof/Tests/Slice0.lean ====
section
/-! SUPPORT. Tests of the model on single steps, and witnesses that the statements' hypotheses can be met. Every expected
result is from the spec: the words from 30_encoding.md's fields, the values from 95_test_vectors.md, whose vector a
docstring names. -/

namespace Sys2Proof.Tests

open Sys2Proof Sys2Proof.Machine

/-! ## Helpers -/

/-- The state after one step that serves `e`. -/
def served (e : HostEvent) (s : State) : State :=
  match step { s with pending := [e] } with
  | .next t => t
  | .fault _ => s
  | .refused _ => s

/-- Whether an outcome is the next state `t`. -/
def isNext (o : Host.Outcome State Fault Refusal) (t : State) : Bool :=
  match o with
  | .next u => u == t
  | .fault _ => false
  | .refused _ => false

/-- An outcome whose next state evaluates to `t` is that next state. -/
theorem next_of (o : Host.Outcome State Fault Refusal) (t : State) (h : isNext o t = true) : o = .next t := by
  unfold isNext at h; split at h
  · rw [eq_of_beq h]
  · cases h
  · cases h

/-- The state after one step that executes the word `w`. -/
def ran (w : Word) (s : State) : State := served (cmdWrite w) s

/-- The reset state with a value in `x1`. -/
def x1 (v : Word) : State := State.reset.setReg 1 v

/-- The low half of a word read as signed, for the vectors given as integers. -/
def int (i : Int) : Word := BitVec.ofInt 32 i

/-- The reset state with the trim file sealed. -/
def sealedReset : State := { State.reset with status := { Status.zero with cal := true } }

/-- The example trim of 95_test_vectors.md 2.5. -/
def exampleTrim : Trim :=
  { t1 := 27504, t2 := 26435, t3 := BitVec.ofInt 16 (-1000),
    p1 := 36477, p2 := BitVec.ofInt 16 (-10685), p3 := 3024, p4 := 2855, p5 := 140, p6 := BitVec.ofInt 16 (-7),
    p7 := 15500, p8 := BitVec.ofInt 16 (-14600), p9 := 6000,
    h1 := 75, h2 := 362, h3 := 0, h4 := 313, h5 := 50, h6 := 30 }

/-- The state of 95_test_vectors.md 2.5: the example trim, sealed, with a TFINE and TFV, and the burst bytes of E1. -/
def sampling (tf : Int) : State :=
  { State.reset with
    cal := exampleTrim, tfine := int tf, status := { Status.zero with cal := true, tfv := true }
    raw := #v[0x65, 0x5A, 0xC0, 0x7E, 0xED, 0x00, 0x75, 0x30] }

/-! ## Well-formedness (30_encoding.md R45) -/

theorem test_getr_selector_8_is_ill_formed : (Instr.getr 3 8).wellFormed = false ∧ (Instr.getr 3 7).wellFormed = true := by
  decide

theorem test_wcal_index_18_is_ill_formed : (Instr.wcal 18 1).wellFormed = false ∧ (Instr.wcal 17 1).wellFormed = true := by
  decide

/-! ## Decoding: every row's word, written out from R42's fields and R46's opcodes -/

theorem test_decode_control :
    decode 0x00000000#32 = .ok .nop ∧ decode 0x01100C80#32 = .ok (.ldi 1 0x0C80) ∧
    decode 0x02101234#32 = .ok (.ldih 1 0x1234) ∧ decode 0x03300004#32 = .ok (.getr 3 4) ∧
    decode 0x04020003#32 = .ok (.setraw 3 2) ∧ decode 0x0501000C#32 = .ok (.wcal 12 1) ∧
    decode 0x06000000#32 = .ok .calseal ∧ decode 0x07000000#32 = .ok .calopen := by decide

theorem test_decode_unpack :
    decode 0x10210000#32 = .ok (.unpk20 2 1) ∧ decode 0x11E40000#32 = .ok (.unpk16 14 4) ∧
    decode 0x12050000#32 = .ok (.unpkh45 5) ∧ decode 0x13720000#32 = .ok (.fld14 7 2) ∧
    decode 0x14210000#32 = .ok (.lexp 2 1) ∧ decode 0x15F10000#32 = .ok (.lmant 15 1) := by decide

theorem test_decode_scale :
    decode 0x20210000#32 = .ok (.tpdec 2 1) ∧ decode 0x21210000#32 = .ok (.t32t10 2 1) ∧
    decode 0x22530000#32 = .ok (.c10f10 5 3) ∧ decode 0x23210000#32 = .ok (.luxdec 2 1) ∧
    decode 0x24210000#32 = .ok (.c100f10 2 1) ∧ decode 0x25980000#32 = .ok (.painhg 9 8) ∧
    decode 0x26012000#32 = .ok (.tpsample 1 2) ∧ decode 0x27010000#32 = .ok (.luxsample 1) := by decide

theorem test_decode_compensation :
    decode 0x30210000#32 = .ok (.compt 2 1) ∧ decode 0x31430000#32 = .ok (.comph 4 3) ∧
    decode 0x32650000#32 = .ok (.compp 6 5) ∧ decode 0x33000000#32 = .ok .envsample := by decide

/-- Vectors D2 to D13: each word is no command, for the reason given. -/
theorem test_decode_refuses :
    decode 0x00000001#32 = .error .reservedBit ∧ decode 0x01110000#32 = .error .reservedBit ∧
    decode 0x03000008#32 = .error .illegalSelector ∧ decode 0x0300000F#32 = .error .illegalSelector ∧
    decode 0x05000012#32 = .error .illegalCoefficient ∧ decode 0x0500001F#32 = .error .illegalCoefficient ∧
    decode 0x04000008#32 = .error .reservedBit ∧ decode 0x08000000#32 = .error .unassignedOp ∧
    decode 0xFFFFFFFF#32 = .error .unassignedOp ∧ decode 0x33000001#32 = .error .reservedBit ∧
    decode 0x26012001#32 = .error .reservedBit ∧ decode 0x12150000#32 = .error .reservedBit := by decide

theorem test_decode_table_word :
    decodeTableWord 32 0x01100C80 = some (.ldi 1 0x0C80) ∧ decodeTableWord 32 0xFFFFFFFF = none := by decide

/-! ## Control and data movement -/

/-- D1. -/
theorem test_nop : ran 0x00000000 State.reset = State.reset := by decide

/-- D2. -/
theorem test_nop_reserved_bit :
    ran 0x00000001 State.reset =
      { State.reset with status := { Status.zero with err := true, ecode := 1 }, einfo := 0x00000001 } := by decide

/-- M1. -/
theorem test_ldi : (ran 0x0110FFFF (x1 0x12345678)).reg 1 = 0x0000FFFF := by decide
/-- M2. -/
theorem test_ldih : (ran 0x02101234 (x1 0x00000C80)).reg 1 = 0x12340C80 := by decide
/-- M3. -/
theorem test_ldih_zero : (ran 0x02100000 (x1 0xFFFFFFFF)).reg 1 = 0x0000FFFF := by decide

/-- M4, on the state that E3's exception leaves. -/
theorem test_getr_status :
    (ran 0x03200007 (ran 0x33000000 State.reset)).reg 2 = 0x00210000 ∧
    (ran 0x03200007 (ran 0x33000000 State.reset)).status.toWord = 0x00210000 := by decide

/-- M5. -/
theorem test_getr_unsampled : (ran 0x03200003 State.reset).reg 2 = 0 := by decide

/-- M6. -/
theorem test_setraw : (ran 0x04020003 (State.reset.setReg 2 0x1234567E)).rawByte 3 = 0x7E := by decide

/-- M8. -/
theorem test_wcal_t3 :
    (ran 0x05010002 (x1 0xFFFFFC18)).cal.t3 = 0xFC18 ∧ (ran 0x05010002 (x1 0xFFFFFC18)).calv .t3 = -1000 := by decide

/-- M11. -/
theorem test_wcal_locked :
    (ran 0x05010000 (sealedReset.setReg 1 5)).status.toWord = 0x00410001 ∧
    (ran 0x05010000 (sealedReset.setReg 1 5)).einfo = 0x05010000 ∧
    (ran 0x05010000 (sealedReset.setReg 1 5)).cal.t1 = 0 := by decide

/-- M12, M13. -/
theorem test_calseal :
    (ran 0x06000000 State.reset).status.toWord = 1 ∧ (ran 0x06000000 sealedReset).status.toWord = 1 := by decide

/-- M14. -/
theorem test_calopen :
    (ran 0x07000000
      { State.reset with status := { Status.zero with cal := true, tfv := true, envv := true } }).status.toWord = 4 := by
  decide

/-! ## Unpack and extract -/

/-- U1, U4. -/
theorem test_unpk20 :
    (ran 0x10210000 (x1 0x00655AC0)).reg 2 = 0x000655AC ∧ (ran 0x10210000 (x1 0x0000000F)).reg 2 = 0 := by decide
/-- U3. -/
theorem test_unpk20_ignores_top : (ran 0x10210000 (x1 0xFFFFFFFF)).reg 2 = 0x000FFFFF := by decide
/-- U6. -/
theorem test_unpk16 : (ran 0x11210000 (x1 0x1234ABCD)).reg 2 = 0x0000ABCD := by decide

/-- W4, U8. -/
theorem test_unpkh45 :
    (ran 0x12010000 (x1 0x12ABABCD)).cal.h4 = 0x12B ∧ (ran 0x12010000 (x1 0x12ABABCD)).cal.h5 = 0xCDA := by decide

/-- U11. -/
theorem test_unpkh45_ignored_nibbles : (ran 0x12010000 (x1 0x00F00F00)).cal = Trim.zero := by decide

/-- U14, U15. -/
theorem test_fld14 :
    (ran 0x13210000 (x1 0x00008000)).reg 2 = int (-8192) ∧ (ran 0x13210000 (x1 0x00007FFF)).reg 2 = 8191 := by decide
/-- U16. -/
theorem test_fld14_minus_one : (ran 0x13210000 (x1 0x0000FFFF)).reg 2 = int (-1) := by decide
/-- U20, U21. -/
theorem test_lexp : (ran 0x14210000 (x1 0x0000FFFF)).reg 2 = 15 ∧ (ran 0x14210000 (x1 0x12340FFF)).reg 2 = 0 := by decide
/-- U19, U21. -/
theorem test_lmant : (ran 0x15210000 (x1 0x000043E8)).reg 2 = 1000 ∧ (ran 0x15210000 (x1 0x12340FFF)).reg 2 = 4095 := by
  decide

/-! ## Linear scale -/

/-- The TPDEC row of 2.4. -/
theorem test_tpdec :
    (ran 0x20210000 (x1 0xE700)).reg 2 = int (-500) ∧ (ran 0x20210000 (x1 0xFFF8)).reg 2 = int (-1) := by decide
/-- The TPDEC row of 2.4. -/
theorem test_tpdec_ends :
    (ran 0x20210000 (x1 0x8000)).reg 2 = int (-2560) ∧ (ran 0x20210000 (x1 0x7FFF)).reg 2 = 2560 := by decide
/-- The T32T10 row of 2.4. -/
theorem test_t32t10 : (ran 0x21210000 (x1 800)).reg 2 = 250 ∧ (ran 0x21210000 (x1 (int (-2)))).reg 2 = int (-1) := by decide
/-- The T32T10 row of 2.4. -/
theorem test_t32t10_wraps :
    (ran 0x21210000 (x1 214748363)).reg 2 = 67108863 ∧ (ran 0x21210000 (x1 214748364)).reg 2 = int (-67108864) := by decide
/-- The C10F10 row of 2.4. -/
theorem test_c10f10 :
    (ran 0x22210000 (x1 (int (-6)))).reg 2 = 310 ∧ (ran 0x22210000 (x1 (int (-400)))).reg 2 = int (-399) := by decide
/-- The C10F10 row of 2.4. -/
theorem test_c10f10_wraps : (ran 0x22210000 (x1 119304647)).reg 2 = int (-214748044) := by decide
/-- W1, W2. -/
theorem test_luxdec : (ran 0x23210000 (x1 0x03E8)).reg 2 = 10 ∧ (ran 0x23210000 (x1 0x4064)).reg 2 = 16 := by decide
/-- The LUXDEC row of 2.4. -/
theorem test_luxdec_top : (ran 0x23210000 (x1 0xFFFF)).reg 2 = 1341850 := by decide
/-- The C100F10 row of 2.4. -/
theorem test_c100f10 :
    (ran 0x24210000 (x1 2508)).reg 2 = 771 ∧ (ran 0x24210000 (x1 (int (-4001)))).reg 2 = int (-399) := by decide
/-- The C100F10 row of 2.4. -/
theorem test_c100f10_wraps : (ran 0x24210000 (x1 238609295)).reg 2 = int (-42949352) := by decide
/-- The PAINHG row of 2.4. -/
theorem test_painhg : (ran 0x25210000 (x1 100653)).reg 2 = 2972 := by decide
/-- The PAINHG row of 2.4. -/
theorem test_painhg_wraps : (ran 0x25210000 (x1 42949673)).reg 2 = 0 := by decide

/-- S1. -/
theorem test_tpsample :
    (ran 0x26012000 ((x1 0x0C80).setReg 2 0xE700)).rdTpint = 250 ∧
    (ran 0x26012000 ((x1 0x0C80).setReg 2 0xE700)).rdTpext = 0xFFFFFE0C ∧
    (ran 0x26012000 ((x1 0x0C80).setReg 2 0xE700)).status.toWord = 8 := by decide

/-- S3. -/
theorem test_luxsample :
    (ran 0x27010000 (x1 0x03E8)).rdLux = 10 ∧ (ran 0x27010000 (x1 0x03E8)).status.toWord = 16 := by decide

/-! ## Compensation -/

/-- T1. -/
theorem test_compt :
    (ran 0x30210000 ((sampling 0).setReg 1 519888)).tfine = 128422 ∧
    (ran 0x30210000 ((sampling 0).setReg 1 519888)).reg 2 = 2508 := by decide

/-- T7. -/
theorem test_compt_wraps :
    (ran 0x30210000 ((sampling 0).setReg 1 0x7FFFFFFF)).tfine = int (-324099) ∧
    (ran 0x30210000 ((sampling 0).setReg 1 0x7FFFFFFF)).reg 2 = int (-6330) := by decide

/-- H1. -/
theorem test_comph :
    (ran 0x31210000 ((sampling 128422).setReg 1 30000)).reg 2 = 552 ∧
    humAccum (sampling 128422).calv 30000 128422 = 230678058 := by decide

/-- H3. -/
theorem test_comph_clamps :
    (ran 0x31210000 ((sampling 128422).setReg 1 65535)).reg 2 = 1003 ∧
    (ran 0x31210000 ((sampling 128422).setReg 1 65535)).status.toWord = 0x83 := by decide

/-- P1, with the intermediates the spec gives for it. -/
theorem test_compp :
    (ran 0x32210000 ((sampling 128422).setReg 1 415148)).reg 2 = 100653 ∧
    presAccum (sampling 0).calv 128422 = 597560748 ∧ presOffset (sampling 0).calv 128422 = 98104795527812 := by decide

/-- P6. -/
theorem test_compp_negative : (ran 0x32210000 ((sampling 128422).setReg 1 1048576)).reg 2 = 16770584 := by decide

/-- E1. -/
theorem test_envsample :
    (ran 0x33000000 (sampling 0)).tfine = 128422 ∧ (ran 0x33000000 (sampling 0)).rdT100 = 2508 ∧
    (ran 0x33000000 (sampling 0)).rdRh10 = 552 ∧ (ran 0x33000000 (sampling 0)).rdPa = 100653 ∧
    (ran 0x33000000 (sampling 0)).status.toWord = 7 := by decide

/-- E4 and E6: the order of NOCAL and NOTFINE. -/
theorem test_stage_order :
    (ran 0x31210000 sealedReset).status.ecode = 3 ∧ (ran 0x31210000 State.reset).status.ecode = 2 := by decide

/-! ## Host access and exceptions -/

/-- A1, A4. -/
theorem test_host_read :
    (served (.read 0x000 4) State.reset).readData = some 0x57534346 ∧
    served (.read 0x014 4) State.reset =
      { State.reset with
        status := { Status.zero with err := true, ecode := 5 }, einfo := 0x14, readData := some 0 } := by decide

/-- A5, A7. -/
theorem test_host_access_refused :
    (served (.write 0x100 4 5) State.reset).einfo = 0x100 ∧ (served (.write 0x100 4 5) State.reset).tfine = 0 ∧
    (served (.read 0x040 2) State.reset).einfo = 0x40 ∧ (served (.read 0x042 4) State.reset).einfo = 0x42 := by decide

/-- A8, A9. -/
theorem test_host_write_cal :
    (served (.write 0x0A0 4 0x12345) sealedReset).status.toWord = 0x00410001 ∧
    (served (.write 0x0A0 4 0x12345) sealedReset).cal = Trim.zero ∧
    (served (.write 0x0A4 4 0xFFFF9999) State.reset).cal.t2 = 0x9999 ∧
    (served (.write 0x0A4 4 0xFFFF9999) State.reset).readWindow (.cal .t2) = 0xFFFF9999 := by decide

/-- The state that A11 leaves. -/
def twoExceptions : State :=
  { State.reset with status := { Status.zero with err := true, eovf := true, ecode := 1 }, einfo := 0xFF000000 }

/-- A11. -/
theorem test_second_exception :
    (served (.read 0x1FC 4) (ran 0xFF000000 State.reset)) = { twoExceptions with readData := some 0 } ∧
    twoExceptions.status.toWord = 0x00130000 := by decide

/-- A12, A13. -/
theorem test_status_write :
    served (.write 0x008 4 0x00010000) twoExceptions = State.reset ∧
    served (.write 0x008 4 0xFFFEFFFF) twoExceptions = twoExceptions := by decide

/-- A14. -/
theorem test_ctrl_reset : served (.write 0x004 4 1) (sampling 5) = State.reset := by decide

/-! ## The assembly text of R49 -/

theorem test_assemble_r49 :
    (assembleLine? "LDI x1, 0x0C80").map (·.map encode) = some [0x01100C80] ∧
    (assembleLine? "lab: getr x3, RD_TPINT ; text").map (·.map encode) = some [0x03300004] ∧
    (assembleLine? "WCAL T2, x4").map (·.map encode) = some [0x05040001] := by decide

theorem test_assemble_pseudo :
    assembleLine? "LI32 x5, 0x13292903" = some [.ldi 5 0x2903, .ldih 5 0x1329] ∧
    assembleLine? "CLR x7" = some [.ldi 7 0] ∧ assembleLine? "TPSAMPLE x1, x16" = none := by decide

/-! ## Witnesses: states and operands that meet the hypotheses of the statements of Obligations.lean, clause by clause -/

theorem witness_DecodeOfEncodeIsTheCommand : (Instr.wcal 17 3).wellFormed = true ∧ (Instr.getr 3 7).wellFormed = true := by
  decide

theorem witness_EncodeOfDecodeIsTheWord : decode 0x0503000A#32 = .ok (.wcal 10 3) := by decide

theorem witness_EveryWordIsOneCommandOrIllegal :
    encode (.tpsample 1 2) = 0x26012000#32 ∧ decode 0x26012001#32 = .error .reservedBit := by decide

/-- Both ends of each unassigned range, and a reserved bit at each end of a format's mask. -/
theorem witness_UnassignedOpAndReservedBitsAreIllegal :
    (0x08000000#32).extractLsb' 24 8 = 0x08 ∧ (0x0F000000#32).extractLsb' 24 8 = 0x0F ∧
    (0x16000000#32).extractLsb' 24 8 = 0x16 ∧ (0x1F000000#32).extractLsb' 24 8 = 0x1F ∧
    (0x28000000#32).extractLsb' 24 8 = 0x28 ∧ (0x2F000000#32).extractLsb' 24 8 = 0x2F ∧
    (0x34000000#32).extractLsb' 24 8 = 0x34 ∧ (0xFF000000#32).extractLsb' 24 8 = 0xFF ∧
    ((0x00000001#32).extractLsb' 24 8 = Op.nop.code ∧ Op.nop.format.mask.getLsbD 0 = true ∧
      (0x00000001#32).getLsbD 0 = true) ∧
    ((0x12800000#32).extractLsb' 24 8 = Op.unpkh45.code ∧ Op.unpkh45.format.mask.getLsbD 23 = true ∧
      (0x12800000#32).getLsbD 23 = true) := by decide

theorem witness_StepRunsTheCommandWritten :
    decode 0x01100C80#32 = .ok (.ldi 1 0x0C80) ∧ decode 0x01110C80#32 = .error .reservedBit := by decide

theorem witness_IdleBlockWaitsForTheNextWord : State.reset.pending = [] ∧ 0xFFFFFFFF < 2 ^ 32 := by decide

/-- Each row's words have its OP: a word of every row that runs, and for each format one that is illegal. -/
theorem witness_rows :
    (Op.all.map fun o => o.matchWord.extractLsb' 24 8) = Op.all.map Op.code ∧
    [0x00000001#32, 0x01010000#32, 0x10210001#32, 0x03000010#32, 0x04000008#32, 0x05000020#32, 0x12050001#32,
      0x26012001#32].map (fun w => w.extractLsb' 24 8) = [0x00, 0x01, 0x10, 0x03, 0x04, 0x05, 0x12, 0x26] := by decide

/-- An invariant state that is not the reset state: a sample was taken, then an exception recorded. -/
def sampledThenRefused : State := served (.read 0x1FC 4) (ran 0x33000000 (sampling 0))

theorem witness_StepKeepsInvariant :
    StateInv sampledThenRefused ∧ step sampledThenRefused = .next sampledThenRefused := by
  refine ⟨?_, next_of _ _ (by decide)⟩
  constructor <;> decide

theorem witness_TfvImpliesCalInEveryReachableState :
    ∃ t, Sys2Proof.core.run 2 { State.reset with pending := [cmdWrite 0x06000000, cmdWrite 0x30210000] } = .next t ∧
      t.status.tfv = true :=
  ⟨{ sealedReset with status := { Status.zero with cal := true, tfv := true } }, next_of _ _ (by decide), by decide⟩

/-- The state whose next step executes the word `w`, as `ran` takes it. -/
def before (w : Word) (s : State) : State := { s with pending := [cmdWrite w] }

/-- A step that keeps TFV, a step that sets TFV, and the two kinds of step that clear CAL. -/
theorem witness_TfvImpliesCal_steps :
    (step (sampling 0) = .next (sampling 0) ∧ (sampling 0).status.tfv = true ∧ (sampling 0).status.cal = true) ∧
    (step (before 0x30120000 sealedReset) = .next (ran 0x30120000 sealedReset) ∧
      (before 0x30120000 sealedReset).status.tfv = false ∧ (ran 0x30120000 sealedReset).status.tfv = true) ∧
    (step (before 0x07000000 (sampling 0)) = .next (ran 0x07000000 (sampling 0)) ∧
      (before 0x07000000 (sampling 0)).status.cal = true ∧ (ran 0x07000000 (sampling 0)).status.cal = false) ∧
    (step { sampling 0 with pending := [.write 0x004 4 1] } = .next State.reset ∧ State.reset.status.cal = false) :=
  ⟨⟨next_of _ _ (by decide), by decide, by decide⟩, ⟨next_of _ _ (by decide), by decide, by decide⟩,
    ⟨next_of _ _ (by decide), by decide, by decide⟩, next_of _ _ (by decide), by decide⟩

theorem witness_ResetSetsEveryRegister : (0x00000001#32).getLsbD 0 = true := by decide

/-- The frames' premises: another register, another byte, another coefficient. -/
theorem witness_frames : (2 : Reg) ≠ 1 ∧ (0 : BitVec 3) ≠ 7 ∧ Coef.h5 ≠ Coef.h4 := by decide

theorem witness_GetrCopiesTheSelectedRegister :
    (0 : BitVec 4).toNat ≤ 7 ∧ (7 : BitVec 4).toNat ≤ 7 ∧ 8 ≤ (8 : BitVec 4).toNat ∧ 8 ≤ (15 : BitVec 4).toNat := by decide

theorem witness_WcalWritesOneCoefficient :
    State.reset.status.cal = false ∧ ((17 : BitVec 5).toNat ≤ 17 ∧ sealedReset.status.cal = true) ∧
    18 ≤ (18 : BitVec 5).toNat ∧ 18 ≤ (31 : BitVec 5).toNat := by decide

theorem witness_Unpkh45UnpacksH4AndH5 : State.reset.status.cal = false ∧ sealedReset.status.cal = true := by decide

/-- Both ends of T32T10's exact range, and the first value past each end. -/
theorem witness_T32t10RescalesWithRounding :
    t32t10 (-214748366) = -67108864 ∧ t32t10 214748363 = 67108863 ∧
    t32t10 (-214748367) ≠ (10 * -214748367 + 16) / 32 ∧ t32t10 214748364 ≠ (10 * 214748364 + 16) / 32 := by decide

theorem witness_C10f10ConvertsTenths :
    ((x1 (int (-119304647))).reg 1).toInt = -119304647 ∧ ((x1 119304646).reg 1).toInt = 119304646 := by decide

theorem witness_C100f10ConvertsHundredths :
    ((x1 (int (-238609294))).reg 1).toInt = -238609294 ∧ ((x1 238609294).reg 1).toInt = 238609294 := by decide

theorem witness_PainhgConvertsPascals : ((x1 42949672).reg 1).toNat ≤ 42949672 := by decide

theorem witness_TpdecIsMonotonic :
    ((-8192 : Int) ≤ -8192 ∧ (-8192 : Int) ≤ 8191 ∧ (8191 : Int) ≤ 8191) ∧
    ((0x8000#16).extractLsb' 2 14).toInt ≤ ((0x7FFC#16).extractLsb' 2 14).toInt := by decide

/-- COMPT's and ENVSAMPLE's two cases. -/
theorem witness_ComptRunsTheTemperatureStage : sealedReset.status.cal = true ∧ State.reset.status.cal = false := by decide

theorem witness_EnvsampleRunsAllStages : (sampling 0).status.cal = true ∧ State.reset.status.cal = false := by decide

/-- COMPH's three cases: ready, unsealed, sealed without a TFINE. -/
theorem witness_ComphRunsTheHumidityStage :
    ((sampling 0).status.cal = true ∧ (sampling 0).status.tfv = true) ∧ State.reset.status.cal = false ∧
    (sealedReset.status.cal = true ∧ sealedReset.status.tfv = false) := by decide

/-- COMPP's three cases, and a result at the top of its range's last byte. -/
theorem witness_ComppRunsThePressureStage :
    ((sampling 128422).status.cal = true ∧ (sampling 128422).status.tfv = true) ∧ State.reset.status.cal = false ∧
    (sealedReset.status.cal = true ∧ sealedReset.status.tfv = false) ∧
    (compP (sampling 128422).calv 1048575 128422).pa = 16770585 := by decide

/-- A trim with H2 = `h2` and every other coefficient 0. -/
def onlyH2 (h2 : Int) : Coef → Int
  | .h2 => h2
  | .t1 | .t2 | .t3 | .p1 | .p2 | .p3 | .p4 | .p5 | .p6 | .p7 | .p8 | .p9 | .h1 | .h3 | .h4 | .h5 | .h6 => 0

/-- An accumulator in each of the three ranges, both ends of the middle one among them (H3, H2 of 2.5). -/
theorem witness_HumidityClampProperty :
    humAccum (sampling 0).calv 65535 128422 = 1035415128 ∧ humAccum (sampling 0).calv 0 128422 = -486364973 ∧
    humAccum (onlyH2 100) 65535 0 = 419430400 ∧ humAccum (onlyH2 0) 65535 0 = 0 := by decide

/-- The guard taken and not taken (P1, P7 of 2.5). -/
theorem witness_PressureZeroGuard :
    onlyH2 0 .p1 = 0 ∧ (compP (onlyH2 0) 415148 128422).zero = true ∧
    (compP (sampling 0).calv 415148 128422).zero = false := by decide

theorem witness_ZeroTrimGivesZeroReadings : ∀ c, onlyH2 0 c = 0 := by intro c; cases c <;> rfl

/-- The state after ENVSAMPLE on `sampling 0`, and it with each raw value in `x1`. -/
theorem witness_EnvsampleAgreesWithTheStageCommands :
    exec .envsample (sampling 0) = .next (ran 0x33000000 (sampling 0)) ∧
    (let u := ran 0x33000000 (sampling 0)
     u.status.cal = true ∧ u.status.tfv = true ∧ u.cal = (sampling 0).cal ∧
     (u.setReg 1 519888).reg 1 =
       0#12 ++ (sampling 0).rawByte 3 ++ (sampling 0).rawByte 4 ++ ((sampling 0).rawByte 5).extractLsb' 4 4 ∧
     (u.setReg 1 30000).reg 1 = 0#16 ++ (sampling 0).rawByte 6 ++ (sampling 0).rawByte 7 ∧
     (u.setReg 1 415148).reg 1 =
       0#12 ++ (sampling 0).rawByte 0 ++ (sampling 0).rawByte 1 ++ ((sampling 0).rawByte 2).extractLsb' 4 4) := ⟨next_of _ _ (by decide), by decide⟩

/-- Two states that differ in TFINE, an X register and an unused burst nibble. -/
theorem witness_EnvsampleReadsOnlyTrimAndBurst :
    let s := sampling 0
    let s' := ((sampling 77).setReg 3 9).setRaw 2 0xCF
    s.status.cal = true ∧ s'.status.cal = true ∧ s.cal = s'.cal ∧ s ≠ s' ∧
    (∀ k, k ≠ 2 → k ≠ 5 → s.rawByte k = s'.rawByte k) ∧
    (s.rawByte 2).extractLsb' 4 4 = (s'.rawByte 2).extractLsb' 4 4 ∧
    (s.rawByte 5).extractLsb' 4 4 = (s'.rawByte 5).extractLsb' 4 4 := by decide

theorem witness_CaptureRecordsTheFirstException :
    State.reset.status.err = false ∧ twoExceptions.status.err = true := by decide

theorem witness_ExceptionRecordDoesNotAffectCommands : ∀ rd, Instr.getr 1 6 ≠ .getr rd 7 := by
  intro rd h; injection h with _ h; revert h; decide

/-- An error state whose next access keeps the record, and one for each event that clears it. -/
theorem witness_StatusWriteIsTheReturn :
    twoExceptions.status.err = true ∧ step twoExceptions = .next twoExceptions ∧
    served .resetSignal twoExceptions = State.reset ∧ served (.write 0x008 4 0x00010000) twoExceptions = State.reset ∧
    served (.write 0x004 4 1) twoExceptions = State.reset ∧ (0x00010000#32).getLsbD 16 = true :=
  ⟨by decide, next_of _ _ (by decide), by decide⟩

theorem witness_WindowMapIsOneToOne :
    windowReg? 0x0E4 = some (.cal .h6) ∧ windowReg? 0x0E8 = none ∧ windowReg? 0x042 = none := by decide

/-- The ends of the reserved ranges, the read-only addresses and the trim file's addresses. -/
theorem witness_RefusedAccessesRaise :
    (2 ≠ 4 ∧ (0x042#9).toNat % 4 ≠ 0) ∧
    (reservedAddr 0x014 ∧ reservedAddr 0x03C ∧ reservedAddr 0x0E8 ∧ reservedAddr 0x0FC ∧ reservedAddr 0x11C ∧
      reservedAddr 0x1FC) ∧
    (readOnlyAddr 0x000 ∧ readOnlyAddr 0x00C ∧ readOnlyAddr 0x100 ∧ readOnlyAddr 0x118) ∧
    (0x0A0 ≤ (0x0A0#9).toNat ∧ (0x0E4#9).toNat < 0x0E8 ∧ (0x0E4#9).toNat % 4 = 0 ∧ sealedReset.status.cal = true) := by
  unfold reservedAddr readOnlyAddr; decide

theorem witness_HostWritesStore : State.reset.status.cal = false ∧ (0xFFFFFFFE#32).getLsbD 0 = false := by decide

theorem witness_HostWritesAreIdempotent :
    (WindowReg.cal .h6).readOnly = false ∧ WindowReg.cal .h6 ≠ .ctrl ∧ WindowReg.cal .h6 ≠ .cmd ∧
    State.reset.status.cal = false ∧
    memWrite (WindowReg.cal .h6).addr 4 0xFFE2 State.reset = .next (State.reset.writeCal .h6 0xE2) :=
  ⟨by decide, by decide, by decide, by decide, next_of _ _ (by decide)⟩

theorem witness_CommandsChangeOnlyWhatTheyName :
    (Instr.unpkh45 5).wellFormed = true ∧ touches (.unpkh45 5) (.cal .h3) = false ∧
    exec (.unpkh45 5) State.reset = .next State.reset :=
  ⟨by decide, by decide, next_of _ _ (by decide)⟩

/-- The two clauses meet at one command: ENVSAMPLE by `exec`, and by the step that serves its word. -/
theorem witness_ValidBitsAndFlagsChangeOnlyAsListed :
    exec .envsample (sampling 0) = .next (ran 0x33000000 (sampling 0)) ∧
    step (before 0x33000000 (sampling 0)) = .next (ran 0x33000000 (sampling 0)) ∧
    step { sampling 0 with pending := [.resetSignal] } = .next State.reset :=
  ⟨next_of _ _ (by decide), next_of _ _ (by decide), next_of _ _ (by decide)⟩

/-- A command that changes each bit and flag. -/
theorem witness_each_bit_changes :
    (ran 0x06000000 State.reset).status.cal ≠ State.reset.status.cal ∧
    (ran 0x30210000 sealedReset).status.tfv ≠ sealedReset.status.tfv ∧
    (ran 0x33000000 (sampling 0)).status.envv ≠ (sampling 0).status.envv ∧
    (ran 0x26012000 State.reset).status.tpv ≠ State.reset.status.tpv ∧
    (ran 0x27010000 State.reset).status.luxv ≠ State.reset.status.luxv ∧
    (ran 0x33000000 sealedReset).status.pzero ≠ sealedReset.status.pzero ∧
    (ran 0x31210000 ((sampling 128422).setReg 1 0)).status.hclo ≠ (sampling 128422).status.hclo ∧
    (ran 0x31210000 ((sampling 128422).setReg 1 65535)).status.hchi ≠ (sampling 128422).status.hchi := by decide

theorem witness_SealedTrimFileIsUnchanged :
    sealedReset.status.cal = true ∧ step sealedReset = .next sealedReset ∧
    served .resetSignal (sampling 0) = State.reset ∧ served (.write 0x004 4 1) (sampling 0) = State.reset :=
  ⟨by decide, next_of _ _ (by decide), by decide, by decide⟩

end Sys2Proof.Tests
end

section
/-! PROOFS. The three stages of 44_compensation.md R80 to R82 as two's complement datapaths (00_scope.md R7, R8): each
primitive on integers is the bit-vector operation on the operands' low bits, so each stage is its chain on words. -/

namespace Sys2Proof.Machine

/-! ## The primitives of R8 on any integers, as bit-vector operations on their low bits -/

theorem addS_eq_add (n : Nat) (a b : Int) : addS n a b = (BitVec.ofInt n a + BitVec.ofInt n b).toInt := by
  rw [addS, wrapS_eq, BitVec.ofInt_add]

theorem subS_eq_sub (n : Nat) (a b : Int) : subS n a b = (BitVec.ofInt n a - BitVec.ofInt n b).toInt := by
  rw [subS, wrapS_eq, Int.sub_eq_add_neg, BitVec.ofInt_add, BitVec.ofInt_neg, ← BitVec.sub_eq_add_neg]

theorem mulS_eq_mul (n : Nat) (a b : Int) : mulS n a b = (BitVec.ofInt n a * BitVec.ofInt n b).toInt := by
  rw [mulS, wrapS_eq, BitVec.ofInt_mul]

/-- A register of 32 bits is read as the same integer on the 64-bit datapath, after sign extension. -/
theorem toInt_eq_signExtend_toInt (w : Word) : w.toInt = (w.signExtend 64).toInt :=
  (BitVec.toInt_signExtend_of_le (by decide)).symm

/-- The pressure output: the low 32 bits of the result, read unsigned, shifted right logically (R82). -/
theorem ofInt_lsr_wrapU_32 (z : BitVec 64) (k : Nat) :
    BitVec.ofInt 32 (lsr (wrapU 32 z.toInt) k) = z.setWidth 32 >>> k := by
  have hlow : wrapU 32 z.toInt = ((z.setWidth 32).toNat : Int) := by
    have hz := BitVec.toInt_eq_toNat_cond z
    have hlt := z.isLt
    simp only [wrapU, pow2, BitVec.toNat_setWidth]
    split at hz <;> omega
  rw [hlow, lsr, pow2, ← Int.natCast_ediv, ← Nat.shiftRight_eq_div_pow, ← BitVec.toNat_ushiftRight,
    BitVec.ofInt_natCast, BitVec.ofNat_toNat, BitVec.setWidth_eq]

/-! ## The temperature stage (R80) -/

/-- `t_fine` of R80 on 32-bit words; `coef` holds the coefficients' low bits. -/
def tempFineWord (coef : Coef → Word) (adcT : Word) : Word :=
  let a := adcT.sshiftRight 3 - coef .t1 <<< 1
  let b := adcT.sshiftRight 4 - coef .t1
  (a * coef .t2).sshiftRight 11 + ((b * b).sshiftRight 12 * coef .t3).sshiftRight 14

theorem compT_tf_eq_toInt (cv : Coef → Int) (adcT : Word) :
    (compT cv adcT.toInt).tf = (tempFineWord (fun k => .ofInt 32 (cv k)) adcT).toInt := by
  simp only [compT, tempFineWord, asr_toInt, shlS_eq_shiftLeft, subS_eq_sub, mulS_eq_mul, addS_toInt,
    BitVec.ofInt_toInt]

theorem compT_t100_eq_toInt (cv : Coef → Int) (adcT tf : Word) (h : (compT cv adcT.toInt).tf = tf.toInt) :
    (compT cv adcT.toInt).t100 = ((tf * 5#32 + 128#32).sshiftRight 8).toInt := by
  have hscale : (compT cv adcT.toInt).t100 = asr (addS 32 (mulS 32 (compT cv adcT.toInt).tf 5) 128) 8 := rfl
  rw [hscale, h, mulS_eq_mul, BitVec.ofInt_toInt, addS_eq_add, BitVec.ofInt_toInt, asr_toInt,
    BitVec.ofInt_ofNat, BitVec.ofInt_ofNat]

/-! ## The humidity stage (R81) -/

/-- The pre-clamp accumulator of R81 on 32-bit words. -/
def humAccumWord (coef : Coef → Word) (adcH tf : Word) : Word :=
  let x := tf - 76800#32
  let u := adcH <<< 14 - coef .h4 <<< 20 - coef .h5 * x
  let u2 := (u + 16384#32).sshiftRight 15
  let w1 := (x * coef .h6).sshiftRight 10
  let y := (x * coef .h3).sshiftRight 11 + 32768#32
  let w2 := (w1 * y).sshiftRight 10 + 2097152#32
  let w3 := (w2 * coef .h2 + 8192#32).sshiftRight 14
  let v := u2 * w3
  let z := v.sshiftRight 15
  v - ((z * z).sshiftRight 7 * coef .h1).sshiftRight 4

theorem humAccum_eq_toInt (cv : Coef → Int) (adcH tf : Word) :
    humAccum cv adcH.toInt tf.toInt = (humAccumWord (fun k => .ofInt 32 (cv k)) adcH tf).toInt := by
  simp only [humAccum, humAccumWord, asr_toInt, shlS_eq_shiftLeft, subS_eq_sub, mulS_eq_mul, addS_eq_add,
    BitVec.ofInt_toInt, BitVec.ofInt_ofNat]

/-- The clamp of R79 on a 32-bit word. -/
def humClampWord (v : Word) : Word :=
  if v.slt 0#32 then 0#32 else if (419430400#32).slt v then 419430400#32 else v

theorem humClamp_flags (v : Word) :
    (humClamp v.toInt).lo = v.slt 0#32 ∧ (humClamp v.toInt).hi = (419430400#32).slt v :=
  ⟨rfl, rfl⟩

/-- The clamp on words is the clamp on integers, and its result is never negative. -/
theorem toNat_humClampWord (v : Word) : ((humClampWord v).toNat : Int) = (humClamp v.toInt).c := by
  have hv := BitVec.toInt_eq_toNat_cond v
  have hlt := v.isLt
  obtain ⟨hlo, hhi⟩ := humClamp_flags v
  simp only [humClampWord, ← hlo, ← hhi, humClamp, decide_eq_true_eq]
  split_ifs with h0 h1
  · simp; omega
  · simp; omega
  · split at hv <;> omega

theorem ofInt_humClamp_rh10 (v : Word) :
    BitVec.ofInt 32 (humClamp v.toInt).rh10 = humClampWord v >>> 12 / 102#32 := by
  have hscale : (humClamp v.toInt).rh10 = (humClamp v.toInt).c / 4096 / 102 := rfl
  have hnat : (humClampWord v >>> 12 / 102#32).toNat = (humClampWord v).toNat / 4096 / 102 := by
    rw [BitVec.toNat_udiv, BitVec.toNat_ushiftRight, Nat.shiftRight_eq_div_pow]; rfl
  have hlt := (humClampWord v).isLt
  apply BitVec.eq_of_toNat_eq
  rw [hnat, hscale, ← toNat_humClampWord, BitVec.toNat_ofInt]
  omega

/-! ## The pressure stage (R82) -/

/-- The stage-one accumulator `a3` of R82 on 64-bit words; `tf` is TFINE sign-extended. -/
def presAccumWord (coef : Coef → BitVec 64) (tf : BitVec 64) : BitVec 64 :=
  let a1 := tf - 128000#64
  let a2 := (a1 * a1 * coef .p3).sshiftRight 8 + (a1 * coef .p2) <<< 12
  ((1#64 <<< 47 + a2) * coef .p1).sshiftRight 33

/-- The offset `b3` of R82 on 64-bit words. -/
def presOffsetWord (coef : Coef → BitVec 64) (tf : BitVec 64) : BitVec 64 :=
  let a1 := tf - 128000#64
  a1 * a1 * coef .p6 + (a1 * coef .p5) <<< 17 + coef .p4 <<< 35

/-- The quotient `p1` of R82 on 64-bit words. -/
def presQuotientWord (coef : Coef → BitVec 64) (adcP : Word) (tf : BitVec 64) : BitVec 64 :=
  let p0 := (1048576#32 - adcP).signExtend 64
  ((p0 <<< 31 - presOffsetWord coef tf) * 3125#64).sdiv (presAccumWord coef tf)

/-- The corrected result `p2` of R82 on 64-bit words. -/
def presCorrectWord (coef : Coef → BitVec 64) (p1 : BitVec 64) : BitVec 64 :=
  let c1 := (coef .p9 * p1.sshiftRight 13 * p1.sshiftRight 13).sshiftRight 25
  let c2 := (coef .p8 * p1).sshiftRight 19
  (p1 + c1 + c2).sshiftRight 8 + coef .p7 <<< 4

theorem presAccum_eq_toInt (cv : Coef → Int) (tf : BitVec 64) :
    presAccum cv tf.toInt = (presAccumWord (fun k => .ofInt 64 (cv k)) tf).toInt := by
  have hone : BitVec.ofInt 64 (pow2 47) = 1#64 <<< 47 := by decide
  simp only [presAccum, presAccumWord, hone, asr_toInt, shlS_eq_shiftLeft, subS_eq_sub, mulS_eq_mul, addS_eq_add,
    BitVec.ofInt_toInt, BitVec.ofInt_ofNat]

theorem presOffset_eq_toInt (cv : Coef → Int) (tf : BitVec 64) :
    presOffset cv tf.toInt = (presOffsetWord (fun k => .ofInt 64 (cv k)) tf).toInt := by
  simp only [presOffset, presOffsetWord, shlS_eq_shiftLeft, subS_eq_sub, mulS_eq_mul, addS_toInt, BitVec.ofInt_toInt,
    BitVec.ofInt_ofNat]

theorem presQuotient_eq_toInt (cv : Coef → Int) (adcP : Word) (tf : BitVec 64) :
    presQuotient cv adcP.toInt tf.toInt = (presQuotientWord (fun k => .ofInt 64 (cv k)) adcP tf).toInt := by
  have hp0 : subS 32 1048576 adcP.toInt = ((1048576#32 - adcP).signExtend 64).toInt := by
    rw [subS_eq_sub, BitVec.ofInt_toInt, BitVec.ofInt_ofNat, toInt_eq_signExtend_toInt]
  simp only [presQuotient, presQuotientWord, hp0, presOffset_eq_toInt, presAccum_eq_toInt, shlS_eq_shiftLeft,
    subS_toInt, mulS_eq_mul, tdivS_toInt, BitVec.ofInt_toInt, BitVec.ofInt_ofNat]

theorem presCorrect_eq_toInt (cv : Coef → Int) (p1 : BitVec 64) :
    presCorrect cv p1.toInt = (presCorrectWord (fun k => .ofInt 64 (cv k)) p1).toInt := by
  simp only [presCorrect, presCorrectWord, asr_toInt, shlS_eq_shiftLeft, mulS_eq_mul, addS_toInt, BitVec.ofInt_toInt]

/-- The zero guard tests the accumulator's word for zero (R83). -/
theorem presAccum_eq_zero_iff (cv : Coef → Int) (tf : BitVec 64) :
    presAccum cv tf.toInt = 0 ↔ presAccumWord (fun k => .ofInt 64 (cv k)) tf = 0#64 := by
  rw [presAccum_eq_toInt, ← BitVec.toInt_inj, BitVec.toInt_zero]

/-! ## The statements -/

/-- Settles O41: both outputs are the chain's words, read as signed integers. -/
theorem temperatureStageIsA32BitDatapath : Obligations.TemperatureStageIsA32BitDatapath := by
  intro cv adcT
  have htf := compT_tf_eq_toInt cv adcT
  exact ⟨by rw [htf, BitVec.ofInt_toInt]; rfl, by rw [compT_t100_eq_toInt cv adcT _ htf, BitVec.ofInt_toInt]; rfl⟩

/-- Settles O42: the accumulator is the chain's word, and the clamp on integers is the clamp on words. -/
theorem humidityStageIsA32BitDatapath : Obligations.HumidityStageIsA32BitDatapath := by
  intro cv adcH tf
  rw [compH, humAccum_eq_toInt]
  exact ⟨ofInt_humClamp_rh10 _, humClamp_flags _⟩

/-- Settles O43: the guard tests the accumulator's word, and past it the result is the chain's word. -/
theorem pressureStageIsA64BitDatapath : Obligations.PressureStageIsA64BitDatapath := by
  intro cv adcP tf
  rw [toInt_eq_signExtend_toInt tf]
  by_cases h : presAccumWord (fun k => .ofInt 64 (cv k)) (tf.signExtend 64) = 0#64
  · have hguard := (presAccum_eq_zero_iff cv _).2 h
    rw [compP, if_pos hguard]
    exact ⟨(if_pos h).symm, (decide_eq_true h).symm⟩
  · have hguard := mt (presAccum_eq_zero_iff cv _).1 h
    rw [compP, if_neg hguard, presQuotient_eq_toInt, presCorrect_eq_toInt]
    exact ⟨(ofInt_lsr_wrapU_32 _ 8).trans (if_neg h).symm, (decide_eq_false h).symm⟩

end Sys2Proof.Machine
end

section
/-! PROOFS. The state of 10_state.md over every step: what a command and what a host access can do to it, each said once
as an inversion, then one rule per state operation for the machine's invariant, and the statements from these. -/

namespace Sys2Proof.Machine

/-! ## The word written to CMD (10_state.md R26, 30_encoding.md R47) -/

theorem executeWord_ok {w : Word} {i : Instr} (h : decode w = .ok i) (s : State) : executeWord w s = exec i s := by
  simp only [executeWord, h]

theorem executeWord_error {w : Word} {d : DecodeError} (h : decode w = .error d) (s : State) :
    executeWord w s = illegal w s := by
  simp only [executeWord, h, illegal]

theorem step_idle {s : State} (h : s.pending = []) : step s = .next s := by
  simp only [step, serveNext, h]

theorem step_cmdWrite (s : State) (w : Word) (rest : List HostEvent) :
    step { s with pending := cmdWrite w :: rest } = executeWord w { s with pending := rest } := rfl

theorem fetchWord_32 {w : Nat} (h : w < 2 ^ 32) : fetchWord 32 w = BitVec.ofNat 32 w := by
  rw [fetchWord, Nat.mod_eq_of_lt h]

/-! ## STATUS as a register (10_state.md R22) -/

theorem toWord_bits (t : Status) :
    t.toWord.getLsbD 0 = t.cal ∧ t.toWord.getLsbD 1 = t.tfv ∧ t.toWord.getLsbD 2 = t.envv ∧
    t.toWord.getLsbD 3 = t.tpv ∧ t.toWord.getLsbD 4 = t.luxv ∧ t.toWord.getLsbD 5 = t.pzero ∧
    t.toWord.getLsbD 6 = t.hclo ∧ t.toWord.getLsbD 7 = t.hchi ∧ t.toWord.getLsbD 16 = t.err ∧
    t.toWord.getLsbD 17 = t.eovf := by
  simp only [Status.toWord, BitVec.getLsbD_append, BitVec.getLsbD_ofBool]
  simp

theorem toWord_ecode (t : Status) : t.toWord.extractLsb' 20 4 = t.ecode := by
  simp (disch := omega) only [Status.toWord, BitVec.extractLsb'_append_eq_of_le,
    BitVec.extractLsb'_append_eq_of_add_le, Nat.reduceSub, BitVec.extractLsb'_eq_self]

theorem toWord_reserved (t : Status) :
    t.toWord.extractLsb' 8 8 = 0 ∧ t.toWord.extractLsb' 18 2 = 0 ∧ t.toWord.extractLsb' 24 8 = 0 := by
  simp (disch := omega) only [Status.toWord, BitVec.extractLsb'_append_eq_of_le,
    BitVec.extractLsb'_append_eq_of_add_le, Nat.reduceSub, BitVec.extractLsb'_eq_self]
  exact ⟨rfl, rfl, rfl⟩

/-! ## What a command can do -/

/-- What a command can do to the state: one constructor per kind of effect, with the condition it has. The values a
command writes to an X register or a burst byte, and what a stage is run on, are the business of its own rule
(41_control.md to 44_compensation.md). -/
inductive CommandEffect (s : State) : Instr → State → Prop where
  | keep (i : Instr) : CommandEffect s i s
  | writeReg (i : Instr) (rd : Reg) (v : Word) : CommandEffect s i (s.setReg rd v)
  | writeRaw (i : Instr) (k : BitVec 3) (v : Byte) : CommandEffect s i (s.setRaw k v)
  | writeTrim (i : Instr) (unsealed : s.status.cal = false) (trim : Trim) : CommandEffect s i { s with cal := trim }
  | raise (i : Instr) (c : Cause) (raises : Raises c i) (wf : c ≠ .illegalCmd → i.wellFormed = true) :
      CommandEffect s i (s.capture c (encode i))
  | sealTrim : CommandEffect s .calseal { s with status := s.status.seal }
  | unsealTrim : CommandEffect s .calopen { s with status := s.status.unseal }
  | thermopile (rs1 rs2 : Reg) : CommandEffect s (.tpsample rs1 rs2)
      { s with rdTpint := wordOf (tpdec (halfOf (s.reg rs1))), rdTpext := wordOf (tpdec (halfOf (s.reg rs2))),
               status := { s.status with tpv := true } }
  | light (rs : Reg) : CommandEffect s (.luxsample rs)
      { s with rdLux := wordOf (lux (halfOf (s.reg rs))), status := { s.status with luxv := true } }
  | temperature (rd rs : Reg) (isSealed : s.status.cal = true) (r : TempResult) :
      CommandEffect s (.compt rd rs) (s.storeTemp rd r)
  | humidity (rd rs : Reg) (adcH tf : Int) : CommandEffect s (.comph rd rs) (s.storeHum rd (compH s.calv adcH tf))
  | pressure (rd rs : Reg) (adcP tf : Int) : CommandEffect s (.compp rd rs) (s.storePres rd (compP s.calv adcP tf))
  | sample (isSealed : s.status.cal = true) (r : TempResult) (adcH adcP tf : Int) :
      CommandEffect s .envsample (s.storeSample r (compH s.calv adcH tf) (compP s.calv adcP tf))

/-- A selector that names no register is an ill-formed one (30_encoding.md R45). -/
theorem wellFormed_getr_of_none (rd : Reg) {sel : BitVec 4} {s : State} (h : s.selected? sel = none) :
    (Instr.getr rd sel).wellFormed = false := by
  simp only [Instr.wellFormed, decide_eq_false_iff_not]
  intro hle
  unfold State.selected? at h
  generalize sel.toNat = n at h hle
  interval_cases n <;> cases h

theorem wellFormed_wcal_iff (k : BitVec 5) (rs : Reg) :
    (Instr.wcal k rs).wellFormed = true ↔ ∃ c, Coef.ofIndex? k.toNat = some c := by
  simp only [Instr.wellFormed, decide_eq_true_eq]
  refine ⟨fun h => (ofIndex?_of_le _ h).imp fun _ hc => hc.1, fun ⟨c, hc⟩ => ?_⟩
  by_contra hgt
  rw [ofIndex?_of_gt _ (by omega)] at hc
  cases hc

theorem getr_effect {rd : Reg} {sel : BitVec 4} {s t : State} (h : exec (.getr rd sel) s = .next t) :
    CommandEffect s (.getr rd sel) t := by
  change execGetr rd sel s = .next t at h
  unfold execGetr at h
  split at h
  case h_1 => cases h; exact .writeReg ..
  case h_2 hnone => cases h; exact .raise _ .illegalCmd (wellFormed_getr_of_none rd hnone) fun hne => absurd rfl hne

theorem wcal_effect {k : BitVec 5} {rs : Reg} {s t : State} (h : exec (.wcal k rs) s = .next t) :
    CommandEffect s (.wcal k rs) t := by
  have hwf := wellFormed_wcal_iff k rs
  change execWcal k rs s = .next t at h
  unfold execWcal at h
  cases hk : Coef.ofIndex? k.toNat with
  | none =>
    have hill : (Instr.wcal k rs).wellFormed = false := by simpa [hk] using hwf
    rw [hk] at h; cases h
    exact .raise _ .illegalCmd hill fun hne => absurd rfl hne
  | some c =>
    simp only [hk] at h
    split at h
    case isTrue => cases h; exact .raise _ .calLocked (.inl ⟨k, rs, rfl⟩) fun _ => hwf.2 ⟨c, hk⟩
    case isFalse hcal => cases h; exact .writeTrim _ (Bool.eq_false_of_not_eq_true hcal) _

theorem unpkh45_effect {rs : Reg} {s t : State} (h : exec (.unpkh45 rs) s = .next t) :
    CommandEffect s (.unpkh45 rs) t := by
  change execUnpkh45 rs s = .next t at h
  unfold execUnpkh45 at h
  split at h
  case isTrue => cases h; exact .raise _ .calLocked (.inr ⟨rs, rfl⟩) fun _ => rfl
  case isFalse hcal => cases h; exact .writeTrim _ (Bool.eq_false_of_not_eq_true hcal) _

theorem compt_effect {rd rs : Reg} {s t : State} (h : exec (.compt rd rs) s = .next t) :
    CommandEffect s (.compt rd rs) t := by
  rcases exec_compt_cases rd rs s with ⟨hcal, r, -, he⟩ | ⟨-, he⟩ <;> rw [he] at h <;> cases h
  · exact .temperature rd rs hcal r
  · exact .raise _ .nocal (.inl ⟨rd, rs, .inl rfl⟩) fun _ => rfl

theorem comph_effect {rd rs : Reg} {s t : State} (h : exec (.comph rd rs) s = .next t) :
    CommandEffect s (.comph rd rs) t := by
  rcases exec_comph_cases rd rs s with ⟨-, -, r, rfl, he⟩ | ⟨-, he⟩ | ⟨-, -, he⟩ <;> rw [he] at h <;> cases h
  · exact .humidity rd rs _ _
  · exact .raise _ .nocal (.inl ⟨rd, rs, .inr (.inl rfl)⟩) fun _ => rfl
  · exact .raise _ .notfine ⟨rd, rs, .inl rfl⟩ fun _ => rfl

theorem compp_effect {rd rs : Reg} {s t : State} (h : exec (.compp rd rs) s = .next t) :
    CommandEffect s (.compp rd rs) t := by
  rcases exec_compp_cases rd rs s with ⟨-, -, r, rfl, he⟩ | ⟨-, he⟩ | ⟨-, -, he⟩ <;> rw [he] at h <;> cases h
  · exact .pressure rd rs _ _
  · exact .raise _ .nocal (.inl ⟨rd, rs, .inr (.inr rfl)⟩) fun _ => rfl
  · exact .raise _ .notfine ⟨rd, rs, .inr rfl⟩ fun _ => rfl

theorem envsample_effect {s t : State} (h : exec .envsample s = .next t) : CommandEffect s .envsample t := by
  rcases exec_envsample_cases s with ⟨hcal, r, hum, pres, -, rfl, rfl, he⟩ | ⟨-, he⟩ <;> rw [he] at h <;> cases h
  · exact .sample hcal r _ _ _
  · exact .raise _ .nocal (.inr rfl) fun _ => rfl

/-- Every command has one of these effects (41_control.md to 44_compensation.md). -/
theorem exec_effect {i : Instr} {s t : State} (h : exec i s = .next t) : CommandEffect s i t := by
  cases i with
  | nop => cases h; exact .keep _
  | ldi | ldih | unpk20 | unpk16 | fld14 | lexp | lmant | tpdec | t32t10 | c10f10 | luxdec | c100f10 | painhg =>
    cases h; exact .writeReg ..
  | getr => exact getr_effect h
  | setraw => cases h; exact .writeRaw ..
  | wcal => exact wcal_effect h
  | calseal => cases h; exact .sealTrim
  | calopen => cases h; exact .unsealTrim
  | unpkh45 => exact unpkh45_effect h
  | tpsample rs1 rs2 => cases h; exact .thermopile rs1 rs2
  | luxsample rs => cases h; exact .light rs
  | compt => exact compt_effect h
  | comph => exact comph_effect h
  | compp => exact compp_effect h
  | envsample => exact envsample_effect h

/-! ## What a host access can do (20_memory.md R30 to R32, 70_reset_and_hazards.md R103) -/

/-- What serving one access can do to the state: one constructor per kind of effect, with the condition it has. -/
inductive AccessEffect (s : State) : HostEvent → State → Prop where
  | keep (a : WindowAddr) (n : Nat) (v : Word) : AccessEffect s (.write a n v) s
  | fetch (a : WindowAddr) (n : Nat) (v : Word) : AccessEffect s (.read a n) { s with readData := some v }
  | refuseRead (a : WindowAddr) (n : Nat) :
      AccessEffect s (.read a n) { s.captureAccess .hostAccess a with readData := some 0 }
  | refuseWrite (a : WindowAddr) (n : Nat) (v : Word) : AccessEffect s (.write a n v) (s.captureAccess .hostAccess a)
  | writeReg (a : WindowAddr) (n : Nat) (v : Word) (r : Reg) : AccessEffect s (.write a n v) (s.setReg r v)
  | writeRaw (a : WindowAddr) (n : Nat) (v : Word) (k : BitVec 3) :
      AccessEffect s (.write a n v) (s.setRaw k (v.setWidth 8))
  | writeTrim (a : WindowAddr) (n : Nat) (v : Word) (unsealed : s.status.cal = false) (c : Coef) :
      AccessEffect s (.write a n v) (s.writeCal c v)
  | refuseTrim (a : WindowAddr) (n : Nat) (v : Word) (trimAddr : 0x0A0 ≤ a.toNat ∧ a.toNat < 0x0E8) :
      AccessEffect s (.write a n v) (s.captureAccess .calLocked a)
  | clearRecord (a : WindowAddr) (n : Nat) (v : Word) : AccessEffect s (.write a n v) s.clearException
  | reset (e : HostEvent) (resets : e = .resetSignal ∨ ∃ v : Word, e = .write 0x004#9 4 v ∧ v.getLsbD 0 = true) :
      AccessEffect s e s.resetBlock
  | command (w : Word) (i : Instr) (t : State) (decodes : decode w = .ok i) (effect : CommandEffect s i t) :
      AccessEffect s (cmdWrite w) t
  | noCommand (w : Word) (d : DecodeError) (refuses : decode w = .error d) :
      AccessEffect s (cmdWrite w) (s.capture .illegalCmd w)

/-- The trim registers' rows of 20_memory.md R29. -/
theorem windowReg?_cal_range {a : WindowAddr} {c : Coef} (h : windowReg? a = some (.cal c)) :
    0x0A0 ≤ a.toNat ∧ a.toNat < 0x0E8 := by
  unfold windowReg? at h
  simp only [ite_eq_iff, reduceCtorEq, Option.some.injEq, and_false, false_or, or_false] at h
  omega

theorem memRead_effect (a : WindowAddr) (n : Nat) (s : State) :
    AccessEffect s (.read a n) { (memRead a n s).2 with readData := some (memRead a n s).1 } := by
  unfold memRead
  split
  · exact .fetch ..
  · exact .refuseRead a n

theorem executeWord_effect {w : Word} {s t : State} (h : executeWord w s = .next t) : AccessEffect s (cmdWrite w) t := by
  rcases executeWord_cases w s with ⟨i, hd, he⟩ | ⟨d, hd, he⟩ <;> rw [he] at h
  · exact .command w i t hd (exec_effect h)
  · cases h; exact .noCommand w d hd

theorem memWrite_effect {a : WindowAddr} {n : Nat} {v : Word} {s t : State} (h : memWrite a n v s = .next t) :
    AccessEffect s (.write a n v) t := by
  unfold memWrite at h
  split at h
  case h_1 => cases h; exact .refuseWrite a n v
  case h_2 r hr =>
    obtain ⟨rfl, hr⟩ := accessReg?_some a n r hr
    obtain ⟨hcmd, hctrl⟩ := windowReg?_cmd_ctrl a
    cases r with
    | cmd => obtain rfl := hcmd hr; exact executeWord_effect h
    | ctrl =>
      obtain rfl := hctrl hr
      by_cases hv : v.getLsbD 0 = true
      · rw [if_pos hv] at h; cases h; exact .reset _ (.inr ⟨v, rfl, hv⟩)
      · rw [if_neg hv] at h; cases h; exact .keep ..
    | status =>
      by_cases hv : v.getLsbD 16 = true
      · rw [if_pos hv] at h; cases h; exact .clearRecord ..
      · rw [if_neg hv] at h; cases h; exact .keep ..
    | cal c =>
      dsimp only at h
      by_cases hcal : s.status.cal = true
      · rw [if_pos hcal] at h; cases h; exact .refuseTrim a 4 v (windowReg?_cal_range hr)
      · rw [if_neg hcal] at h; cases h; exact .writeTrim a 4 v (Bool.eq_false_of_not_eq_true hcal) c
    | x r => cases h; exact .writeReg ..
    | raw k => cases h; exact .writeRaw ..
    | id | einfo | tfine | rdT100 | rdRh10 | rdPa | rdTpint | rdTpext | rdLux => cases h; exact .refuseWrite a 4 v

theorem serve_effect {e : HostEvent} {s t : State} (h : serve e s = .next t) : AccessEffect s e t := by
  cases e with
  | read a n => cases h; exact memRead_effect a n s
  | write a n v => exact memWrite_effect h
  | resetSignal => cases h; exact .reset _ (.inl rfl)

/-! ## The information value of an exception (60_exceptions.md R89) -/

theorem decode_encode_getr (rd : Reg) (sel : BitVec 4) :
    decode (encode (.getr rd sel)) = if sel.toNat ≤ 7 then .ok (.getr rd sel) else .error .illegalSelector :=
  (decode_packed .getr rd 0 (0#12 ++ sel) (masked_g ..)).trans (by simp only [Op.build, selector_field])

theorem decode_encode_wcal (k : BitVec 5) (rs : Reg) :
    decode (encode (.wcal k rs)) = if k.toNat ≤ 17 then .ok (.wcal k rs) else .error .illegalCoefficient :=
  (decode_packed .wcal 0 rs (0#11 ++ k) (masked_k ..)).trans (by simp only [Op.build, coefIndex_field])

theorem decode_encode_unpkh45 (rs : Reg) : decode (encode (.unpkh45 rs)) = .ok (.unpkh45 rs) :=
  decode_packed .unpkh45 0 rs 0 (masked_u ..)

theorem decode_encode_compt (rd rs : Reg) : decode (encode (.compt rd rs)) = .ok (.compt rd rs) :=
  decode_packed .compt rd rs 0 (masked_r ..)

theorem decode_encode_comph (rd rs : Reg) : decode (encode (.comph rd rs)) = .ok (.comph rd rs) :=
  decode_packed .comph rd rs 0 (masked_r ..)

theorem decode_encode_compp (rd rs : Reg) : decode (encode (.compp rd rs)) = .ok (.compp rd rs) :=
  decode_packed .compp rd rs 0 (masked_r ..)

theorem decode_encode_envsample : decode (encode .envsample) = .ok .envsample :=
  decode_packed .envsample 0 0 0 (masked_n ..)

/-- An ill-formed command's word is no command (30_encoding.md R45, R47). -/
theorem decode_encode_of_illFormed {i : Instr} (h : i.wellFormed = false) : ∃ d, decode (encode i) = .error d := by
  cases i <;> simp only [Instr.wellFormed, Bool.true_eq_false, decide_eq_false_iff_not] at h
  case getr rd sel => exact ⟨_, (decode_encode_getr rd sel).trans (if_neg h)⟩
  case wcal k rs => exact ⟨_, (decode_encode_wcal k rs).trans (if_neg h)⟩

theorem infoFits_illegalCmd {w : Word} {d : DecodeError} (h : decode w = .error d) :
    infoFits Cause.illegalCmd.code w = true := by
  simp [infoFits, Cause.code, h]

/-- A command's exception records a word that fits its cause. -/
theorem infoFits_encode {c : Cause} {i : Instr} (h : Raises c i) (wf : c ≠ .illegalCmd → i.wellFormed = true) :
    infoFits c.code (encode i) = true := by
  cases c with
  | illegalCmd =>
    obtain ⟨d, hd⟩ := decode_encode_of_illFormed h
    exact infoFits_illegalCmd hd
  | nocal =>
    obtain ⟨rd, rs, rfl | rfl | rfl⟩ | rfl := h
    · simp [infoFits, Cause.code, decode_encode_compt]
    · simp [infoFits, Cause.code, decode_encode_comph]
    · simp [infoFits, Cause.code, decode_encode_compp]
    · simp [infoFits, Cause.code, decode_encode_envsample]
  | notfine =>
    obtain ⟨rd, rs, rfl | rfl⟩ := h
    · simp [infoFits, Cause.code, decode_encode_comph]
    · simp [infoFits, Cause.code, decode_encode_compp]
  | calLocked =>
    obtain ⟨k, rs, rfl⟩ | ⟨rs, rfl⟩ := h
    · have hk : k.toNat ≤ 17 := of_decide_eq_true (wf (by decide))
      simp [infoFits, Cause.code, decode_encode_wcal, hk]
    · simp [infoFits, Cause.code, decode_encode_unpkh45]
  | hostAccess => cases h

theorem infoFits_hostAccess (a : WindowAddr) : infoFits Cause.hostAccess.code (a.setWidth 32) = true := by
  have hn : (a.setWidth 32).toNat = a.toNat := BitVec.toNat_setWidth_of_le (by decide)
  simp only [infoFits, Cause.code, BitVec.reduceToNat, hn, decide_eq_true_eq]
  exact a.isLt

/-- A trim register's address fits CAL_LOCKED, whatever command it may decode to. -/
theorem infoFits_trimAddr {a : WindowAddr} (h : 0x0A0 ≤ a.toNat ∧ a.toNat < 0x0E8) :
    infoFits Cause.calLocked.code (a.setWidth 32) = true := by
  have hn : (a.setWidth 32).toNat = a.toNat := BitVec.toNat_setWidth_of_le (by decide)
  have hrange : (0x0A0 ≤ (a.setWidth 32).toNat && (a.setWidth 32).toNat < 0x0E8) = true := by simp [hn, h]
  simp only [infoFits, Cause.code, BitVec.reduceToNat]
  split
  · rfl
  · rfl
  · exact hrange

/-! ## One rule per state operation for the invariant -/

theorem stateInv_reset : StateInv State.reset := by
  constructor <;> decide

namespace StateInv

variable {s : State}

/-- The invariant reads STATUS, EINFO and the readings, and nothing else of the state. -/
theorem frame (h : StateInv s) (x : Vector Word 16) (raw : Vector Byte 8) (cal : Trim) (tfine : Word)
    (pending : List HostEvent) (readData : Option Word) :
    StateInv { s with x := x, raw := raw, cal := cal, tfine := tfine, pending := pending, readData := readData } :=
  { h with }

theorem resetBlock (s : State) : StateInv s.resetBlock := stateInv_reset.frame ..

theorem clearException (h : StateInv s) : StateInv s.clearException :=
  { h with no_record := fun _ => ⟨rfl, rfl, rfl⟩, record := nofun }

/-- A first exception must record a fitting value; a further one records nothing (60_exceptions.md R92). -/
theorem capture (h : StateInv s) {c : Cause} {w : Word} (fits : infoFits c.code w = true) :
    StateInv (s.capture c w) := by
  cases herr : s.status.err with
  | false => rw [capture_first _ _ _ herr]; exact { h with no_record := nofun, record := fun _ => fits }
  | true =>
    rw [capture_further _ _ _ herr]
    exact { h with no_record := fun hf => absurd (herr.symm.trans hf) (by decide) }

theorem sealTrim (h : StateInv s) : StateInv { s with status := s.status.seal } :=
  { h with tfv_needs_cal := fun _ => rfl }

theorem unsealTrim (h : StateInv s) : StateInv { s with status := s.status.unseal } :=
  { h with tfv_needs_cal := nofun }

theorem storeTemp (h : StateInv s) (hcal : s.status.cal = true) (rd : Reg) (r : TempResult) :
    StateInv (s.storeTemp rd r) :=
  { h with tfv_needs_cal := fun _ => hcal }

theorem storeHum (h : StateInv s) (rd : Reg) {r : HumResult} (hclamp : ¬(r.lo = true ∧ r.hi = true)) :
    StateInv (s.storeHum rd r) :=
  { h with one_clamp := hclamp }

theorem storePres (h : StateInv s) (rd : Reg) (r : PresResult) : StateInv (s.storePres rd r) :=
  { h with }

end StateInv

theorem not_lo_and_hi_compH (cv : Coef → Int) (adcH tf : Int) :
    ¬((compH cv adcH tf).lo = true ∧ (compH cv adcH tf).hi = true) := by
  simp only [compH, humClamp, decide_eq_true_eq]
  omega

theorem toNat_wordOf_rh10_le (cv : Coef → Int) (adcH tf : Int) : (wordOf (compH cv adcH tf).rh10).toNat ≤ 1003 := by
  obtain ⟨h0, h1⟩ := humClamp_range (humAccum cv adcH tf)
  have hval := toNat_wordOf_of_range (humClamp (humAccum cv adcH tf)).rh10 h0 (by omega)
  rw [compH]
  omega

theorem toNat_wordOf_pa_lt (cv : Coef → Int) (adcP tf : Int) : (wordOf (compP cv adcP tf).pa).toNat < 2 ^ 24 := by
  obtain ⟨h0, h1⟩ := compP_range cv adcP tf
  have hval := toNat_wordOf_of_range _ h0 (by omega)
  omega

theorem toInt_wordOf_tpdec_range (r : BitVec 16) :
    -2560 ≤ (wordOf (tpdec r)).toInt ∧ (wordOf (tpdec r)).toInt ≤ 2560 := by
  obtain ⟨h0, h1⟩ := tpdec_range r
  rw [toInt_wordOf_of_range _ (by omega) (by omega)]
  exact ⟨h0, h1⟩

theorem toNat_wordOf_lux_le (r : BitVec 16) : (wordOf (lux r)).toNat ≤ 1341850 := by
  obtain ⟨-, h0, h1⟩ := lux_eq r
  have hval := toNat_wordOf_of_range _ h0 (by omega)
  omega

/-- A command keeps the invariant. -/
theorem CommandEffect.keeps_inv {i : Instr} {s t : State} (h : CommandEffect s i t) (hs : StateInv s) : StateInv t := by
  cases h with
  | keep => exact hs
  | writeReg | writeRaw | writeTrim => exact hs.frame ..
  | raise _ c raises wf => exact hs.capture (infoFits_encode raises wf)
  | sealTrim => exact hs.sealTrim
  | unsealTrim => exact hs.unsealTrim
  | thermopile rs1 rs2 =>
    exact { hs with
      tp_default := nofun
      tpint_range := toInt_wordOf_tpdec_range _
      tpext_range := toInt_wordOf_tpdec_range _ }
  | light rs => exact { hs with lux_default := nofun, lux_range := toNat_wordOf_lux_le _ }
  | temperature rd rs isSealed r => exact hs.storeTemp isSealed rd r
  | humidity rd rs adcH tf => exact hs.storeHum rd (not_lo_and_hi_compH _ _ _)
  | pressure rd rs adcP tf => exact hs.storePres ..
  | sample isSealed r adcH adcP tf =>
    exact { hs with
      tfv_needs_cal := fun _ => isSealed
      one_clamp := not_lo_and_hi_compH _ _ _
      env_default := nofun
      rh10_range := toNat_wordOf_rh10_le ..
      pa_range := toNat_wordOf_pa_lt .. }

/-- An access keeps the invariant. -/
theorem AccessEffect.keeps_inv {e : HostEvent} {s t : State} (h : AccessEffect s e t) (hs : StateInv s) :
    StateInv t := by
  cases h with
  | keep => exact hs
  | fetch | writeReg | writeRaw | writeTrim => exact hs.frame ..
  | refuseRead a n => exact (hs.capture (infoFits_hostAccess a)).frame ..
  | refuseWrite a n v => exact hs.capture (infoFits_hostAccess a)
  | refuseTrim a n v trimAddr => exact hs.capture (infoFits_trimAddr trimAddr)
  | clearRecord => exact hs.clearException
  | reset => exact .resetBlock s
  | command w i t decodes effect => exact effect.keeps_inv hs
  | noCommand w d refuses => exact hs.capture (infoFits_illegalCmd refuses)

/-- What a step can do: keep the state, or serve the next access on the state without it. -/
theorem step_effect {s t : State} (h : step s = .next t) :
    t = s ∨ ∃ e rest, s.pending = e :: rest ∧ AccessEffect { s with pending := rest } e t := by
  obtain ⟨-, rfl⟩ | ⟨e, rest, hp, he⟩ := step_cases s t h
  · exact .inl rfl
  · exact .inr ⟨e, rest, hp, serve_effect he⟩

/-- Settles O11: the invariant does not read the host's port, and what serving an access does keeps it. -/
theorem stepKeepsInvariant : Obligations.StepKeepsInvariant := by
  intro s t hs h
  obtain rfl | ⟨e, rest, -, heffect⟩ := step_effect h
  · exact hs
  · exact heffect.keeps_inv (hs.frame ..)

/-! ## The sealed trim file (10_state.md R17) -/

theorem CommandEffect.keeps_sealed_trim {i : Instr} {s t : State} (h : CommandEffect s i t)
    (hcal : s.status.cal = true) : t.cal = s.cal := by
  cases h with
  | writeTrim _ unsealed => rw [unsealed] at hcal; cases hcal
  | raise => exact capture_cal ..
  | _ => rfl

theorem AccessEffect.keeps_sealed_trim {e : HostEvent} {s t : State} (h : AccessEffect s e t)
    (hcal : s.status.cal = true) :
    t.cal = s.cal ∨ e = .resetSignal ∨ ∃ v : Word, e = .write 0x004#9 4 v ∧ v.getLsbD 0 = true := by
  cases h with
  | writeTrim _ _ _ unsealed => rw [unsealed] at hcal; cases hcal
  | refuseRead | refuseWrite | refuseTrim | noCommand => exact .inl (capture_cal ..)
  | reset _ resets => exact .inr resets
  | command w i t decodes effect => exact .inl (effect.keeps_sealed_trim hcal)
  | keep | fetch | writeReg | writeRaw | clearRecord => exact .inl rfl

/-- Settles O58: every effect on the trim file but a reset's asks for the file to be unsealed. -/
theorem sealedTrimFileIsUnchanged : Obligations.SealedTrimFileIsUnchanged := by
  intro s t hcal h
  obtain rfl | ⟨e, rest, hp, heffect⟩ := step_effect h
  · exact .inl rfl
  · obtain hkeep | rfl | ⟨v, rfl, hv⟩ := heffect.keeps_sealed_trim hcal
    · exact .inl hkeep
    · exact .inr ⟨rest, .inl hp⟩
    · exact .inr ⟨rest, .inr ⟨v, hp, hv⟩⟩

/-! ## The valid bits and the condition flags (10_state.md R23, R24) -/

/-- From STATUS `s` to STATUS `t` a valid bit or condition flag changes only by a command in `P` that R23 or R24 names,
in the direction R23 gives, or, where `R` holds, by a reset. Both clauses of O57 are of this form. -/
def FlagsChangeOnlyBy (P : Instr → Prop) (R : Prop) (s t : Status) : Prop :=
  (t.cal ≠ s.cal → (P .calseal ∧ t.cal = true) ∨ ((P .calopen ∨ R) ∧ t.cal = false)) ∧
  (t.tfv ≠ s.tfv → ((P .calopen ∨ R) ∧ t.tfv = false) ∨
    (((∃ rd rs, P (.compt rd rs)) ∨ P .envsample) ∧ t.tfv = true ∧ s.cal = true)) ∧
  (t.envv ≠ s.envv → (P .envsample ∧ t.envv = true) ∨ (R ∧ t.envv = false)) ∧
  (t.tpv ≠ s.tpv → ((∃ a b, P (.tpsample a b)) ∧ t.tpv = true) ∨ (R ∧ t.tpv = false)) ∧
  (t.luxv ≠ s.luxv → ((∃ a, P (.luxsample a)) ∧ t.luxv = true) ∨ (R ∧ t.luxv = false)) ∧
  (t.pzero ≠ s.pzero → (∃ rd rs, P (.compp rd rs)) ∨ P .envsample ∨ (R ∧ t.pzero = false)) ∧
  (t.hclo ≠ s.hclo → (∃ rd rs, P (.comph rd rs)) ∨ P .envsample ∨ (R ∧ t.hclo = false)) ∧
  (t.hchi ≠ s.hchi → (∃ rd rs, P (.comph rd rs)) ∨ P .envsample ∨ (R ∧ t.hchi = false))

theorem CommandEffect.flagsChangeOnlyBy {i : Instr} {s t : State} (h : CommandEffect s i t) {P : Instr → Prop}
    (R : Prop) (hP : P i) : FlagsChangeOnlyBy P R s.status t.status := by
  unfold FlagsChangeOnlyBy
  cases h with
  | keep | writeReg | writeRaw | writeTrim | raise => simp
  | sealTrim => simp [Status.seal, hP]
  | unsealTrim => simp [Status.unseal, hP]
  | thermopile rs1 rs2 =>
    have hex : ∃ a b, P (.tpsample a b) := ⟨rs1, rs2, hP⟩
    simp [hex]
  | light rs =>
    have hex : ∃ a, P (.luxsample a) := ⟨rs, hP⟩
    simp [hex]
  | temperature rd rs isSealed =>
    have hex : ∃ rd rs, P (.compt rd rs) := ⟨rd, rs, hP⟩
    simp [isSealed, hex]
  | humidity rd rs =>
    have hex : ∃ rd rs, P (.comph rd rs) := ⟨rd, rs, hP⟩
    simp [Status.withHumidityFlags, hex]
  | pressure rd rs =>
    have hex : ∃ rd rs, P (.compp rd rs) := ⟨rd, rs, hP⟩
    simp [Status.withPressureFlag, hex]
  | sample isSealed => simp [isSealed, Status.withPressureFlag, Status.withHumidityFlags, hP]

theorem FlagsChangeOnlyBy.reset (P : Instr → Prop) {R : Prop} (hR : R) (s : Status) :
    FlagsChangeOnlyBy P R s Status.zero := by
  simp [FlagsChangeOnlyBy, Status.zero, hR]

/-- Settles O57: a command's effect gives the first clause, and with the served command in its place the second; a step
that runs none resets the block or leaves STATUS's bits alone. -/
theorem validBitsAndFlagsChangeOnlyAsListed : Obligations.ValidBitsAndFlagsChangeOnlyAsListed := by
  refine ⟨fun i s t h => ?_, fun s t h => ?_⟩
  · obtain ⟨hcal, htfv, henvv, htpv, hluxv, hpzero, hhclo, hhchi⟩ :=
      (exec_effect h).flagsChangeOnlyBy (P := (i = ·)) False rfl
    simp only [or_false, false_and] at hcal htfv henvv htpv hluxv hpzero hhclo hhchi
    exact ⟨hcal, htfv, henvv, htpv, hluxv, hpzero, fun h => h.elim hhclo hhchi⟩
  · obtain ⟨i, rest, hserves, hexec⟩ | ⟨hreset, hzero⟩ | ⟨hcal, htfv, henvv, htpv, hluxv, hpzero, hhclo, hhchi⟩ :=
      step_status_cases s t h
    · exact (exec_effect hexec).flagsChangeOnlyBy _ hserves
    · rw [hzero]; exact FlagsChangeOnlyBy.reset _ hreset s.status
    · exact ⟨absurd hcal, absurd htfv, absurd henvv, absurd htpv, absurd hluxv, absurd hpzero, absurd hhclo,
        absurd hhchi⟩

/-! ## The statements about the step and STATUS -/

/-- Settles O6: a CMD write executes its word, and decoding decides what that is. -/
theorem stepRunsTheCommandWritten : Obligations.StepRunsTheCommandWritten := by
  intro s w rest
  have hstep := step_cmdWrite s w rest
  exact ⟨fun i hi => hstep.trans (executeWord_ok hi _), fun d hd => hstep.trans (executeWord_error hd _)⟩

/-- Settles O7: with nothing pending the state stays, and a placed word is a CMD write in front. -/
theorem idleBlockWaitsForTheNextWord : Obligations.IdleBlockWaitsForTheNextWord := by
  refine ⟨fun s h => step_idle h, fun s w hw => ?_⟩
  rw [State.withFetchWord, fetchWord_32 hw, step_cmdWrite]

/-- Settles O59: each bit and field is one part of the concatenation that `Status.toWord` is. -/
theorem statusWordHoldsItsFields : Obligations.StatusWordHoldsItsFields := by
  intro t
  obtain ⟨hcal, htfv, henvv, htpv, hluxv, hpzero, hhclo, hhchi, herr, heovf⟩ := toWord_bits t
  obtain ⟨h15to8, h19to18, h31to24⟩ := toWord_reserved t
  exact ⟨hcal, htfv, henvv, htpv, hluxv, hpzero, hhclo, hhchi, h15to8, herr, heovf, h19to18, toWord_ecode t, h31to24⟩

end Sys2Proof.Machine
end

section
/-! PROOFS. The host window of 20_memory.md: its address map in both directions, what an access does at a register it
finds and at an address that has none, which window registers a command changes, and that serving an access leaves the
accesses to come alone. -/

namespace Sys2Proof.Machine

/-! ## The address map (20_memory.md R29) -/

theorem index_le (c : Coef) : c.index ≤ 17 := by cases c <;> decide

theorem index_of_ofIndex? {k : Nat} {c : Coef} (h : Coef.ofIndex? k = some c) : c.index = k := by
  rcases Nat.lt_or_ge 17 k with hk | hk
  · rw [ofIndex?_of_gt k hk] at h; cases h
  · obtain ⟨c', hc', hindex⟩ := ofIndex?_of_le k hk
    obtain rfl := Option.some.inj (h.symm.trans hc')
    exact hindex

theorem ofIndex?_eq_some_iff (k : Nat) (c : Coef) : Coef.ofIndex? k = some c ↔ c.index = k :=
  ⟨index_of_ofIndex?, fun h => h ▸ ofIndex?_index c⟩

theorem ofIndex?_eq_none_iff (k : Nat) : Coef.ofIndex? k = none ↔ 18 ≤ k := by
  refine ⟨fun h => ?_, ofIndex?_of_gt k⟩
  by_contra hk
  obtain ⟨c, hc, -⟩ := ofIndex?_of_le k (by omega)
  cases h.symm.trans hc

theorem toNat_addr_x (r : Reg) : (WindowReg.x r).addr.toNat = 0x040 + 4 * r.toNat := by
  rw [WindowReg.addr, BitVec.toNat_ofNat]
  omega

theorem toNat_addr_raw (k : BitVec 3) : (WindowReg.raw k).addr.toNat = 0x080 + 4 * k.toNat := by
  rw [WindowReg.addr, BitVec.toNat_ofNat]
  omega

theorem toNat_addr_cal (c : Coef) : (WindowReg.cal c).addr.toNat = 0x0A0 + 4 * c.index := by
  have hle := index_le c
  rw [WindowReg.addr, BitVec.toNat_ofNat]
  omega

theorem windowReg?_addr (r : WindowReg) : windowReg? r.addr = some r := by
  cases r with
  | x r => fin_cases r <;> rfl
  | raw k => fin_cases k <;> rfl
  | cal c => cases c <;> decide
  | _ => rfl

/-- The map's rows read from the register's side: the test of the row that answers `r` fixes the address. -/
theorem toNat_addr_of_windowReg? {a : WindowAddr} {r : WindowReg} (h : windowReg? a = some r) :
    r.addr.toNat = a.toNat := by
  unfold windowReg? at h
  simp only [ite_eq_iff, reduceCtorEq, Option.some.injEq, Option.map_eq_some_iff, ofIndex?_eq_some_iff, and_false,
    false_or, or_false] at h
  cases r <;>
    simp only [WindowReg.addr, BitVec.ofNat_eq_ofNat, BitVec.toNat_ofNat, reduceCtorEq, WindowReg.x.injEq,
      WindowReg.raw.injEq, WindowReg.cal.injEq, exists_eq_right, ← BitVec.toNat_inj, and_false, exists_false,
      false_or, or_false] at h ⊢ <;>
    omega

theorem addr_of_windowReg? {a : WindowAddr} {r : WindowReg} (h : windowReg? a = some r) : r.addr = a :=
  BitVec.eq_of_toNat_eq (toNat_addr_of_windowReg? h)

theorem windowReg?_eq_none_iff (a : WindowAddr) : windowReg? a = none ↔ a.toNat % 4 ≠ 0 ∨ reservedAddr a.toNat := by
  unfold windowReg? reservedAddr
  simp only [ite_eq_iff, reduceCtorEq, Option.map_eq_none_iff, ofIndex?_eq_none_iff, and_true, and_false, false_or]
  omega

theorem exists_addr_eq {a : WindowAddr} (halign : a.toNat % 4 = 0) (hres : ¬reservedAddr a.toNat) :
    ∃ r : WindowReg, r.addr = a := by
  cases h : windowReg? a with
  | none => exact ((windowReg?_eq_none_iff a).1 h).elim (absurd halign) (absurd · hres)
  | some r => exact ⟨r, addr_of_windowReg? h⟩

/-- Settles O51: the three directions of the map. -/
theorem windowMapIsOneToOne : Obligations.WindowMapIsOneToOne :=
  ⟨windowReg?_addr, fun _ _ => addr_of_windowReg?, windowReg?_eq_none_iff⟩

/-! ## Which register an access reaches (20_memory.md R30) -/

theorem accessReg?_addr (r : WindowReg) : accessReg? r.addr 4 = some r := windowReg?_addr r

theorem accessReg?_eq_none_iff (a : WindowAddr) (n : Nat) :
    accessReg? a n = none ↔ n ≠ 4 ∨ a.toNat % 4 ≠ 0 ∨ reservedAddr a.toNat := by
  rw [← windowReg?_eq_none_iff, accessReg?]
  split <;> simp_all

theorem readOnly_iff (r : WindowReg) : r.readOnly = true ↔ readOnlyAddr r.addr.toNat := by
  unfold readOnlyAddr
  cases r with
  | x r => exact iff_of_false nofun (by rw [toNat_addr_x]; omega)
  | raw k => exact iff_of_false nofun (by rw [toNat_addr_raw]; omega)
  | cal c => exact iff_of_false nofun (by have hle := index_le c; rw [toNat_addr_cal]; omega)
  | _ => decide

theorem cal_of_addr_range {r : WindowReg} (hlo : 0x0A0 ≤ r.addr.toNat) (hhi : r.addr.toNat < 0x0E8) :
    ∃ c, r = .cal c := by
  cases r with
  | cal c => exact ⟨c, rfl⟩
  | x r => rw [toNat_addr_x] at hlo; omega
  | raw k => rw [toNat_addr_raw] at hlo; omega
  | _ => exact absurd (And.intro hlo hhi) (by decide)

/-! ## What one access does (20_memory.md R30 to R32) -/

theorem zeros_append_eq_setWidth (k n : Nat) (v : BitVec n) : 0#k ++ v = v.setWidth (k + n) := by
  have hlt : v.toNat < 2 ^ (k + n) := v.isLt.trans_le (Nat.pow_le_pow_right (by decide) (by omega))
  apply BitVec.eq_of_toNat_eq
  simp [Nat.mod_eq_of_lt hlt]

theorem captureAccess_eq (s : State) (e : Cause) (a : WindowAddr) : s.captureAccess e a = s.capture e (0#23 ++ a) := by
  rw [zeros_append_eq_setWidth, State.captureAccess]

theorem step_read (s : State) (rest : List HostEvent) (a : WindowAddr) (n : Nat) :
    step { s with pending := .read a n :: rest } =
      .next { (memRead a n { s with pending := rest }).2 with
        readData := some (memRead a n { s with pending := rest }).1 } := rfl

theorem step_write (s : State) (rest : List HostEvent) (a : WindowAddr) (n : Nat) (v : Word) :
    step { s with pending := .write a n v :: rest } = memWrite a n v { s with pending := rest } := rfl

theorem memRead_addr (r : WindowReg) (s : State) : memRead r.addr 4 s = (s.readWindow r, s) := by
  rw [memRead, accessReg?_addr]

theorem memRead_refused {a : WindowAddr} {n : Nat} (h : accessReg? a n = none) (s : State) :
    memRead a n s = (0, s.captureAccess .hostAccess a) := by
  rw [memRead, h]

theorem memWrite_refused {a : WindowAddr} {n : Nat} (h : accessReg? a n = none) (v : Word) (s : State) :
    memWrite a n v s = .next (s.captureAccess .hostAccess a) := by
  rw [memWrite, h]

theorem memWrite_readOnly {r : WindowReg} (h : r.readOnly = true) (v : Word) (s : State) :
    memWrite r.addr 4 v s = .next (s.captureAccess .hostAccess r.addr) := by
  rw [memWrite, accessReg?_addr]
  cases r with
  | ctrl | status | cmd | x | raw | cal => cases h
  | _ => rfl

theorem memWrite_x (r : Reg) (v : Word) (s : State) :
    memWrite (WindowReg.x r).addr 4 v s = .next (s.setReg r v) := by
  rw [memWrite, accessReg?_addr]

theorem memWrite_raw (k : BitVec 3) (v : Word) (s : State) :
    memWrite (WindowReg.raw k).addr 4 v s = .next (s.setRaw k (v.setWidth 8)) := by
  rw [memWrite, accessReg?_addr]

theorem memWrite_cal_sealed (c : Coef) (v : Word) {s : State} (h : s.status.cal = true) :
    memWrite (WindowReg.cal c).addr 4 v s = .next (s.captureAccess .calLocked (WindowReg.cal c).addr) := by
  rw [memWrite, accessReg?_addr]
  exact if_pos h

theorem memWrite_cal_unsealed (c : Coef) (v : Word) {s : State} (h : s.status.cal = false) :
    memWrite (WindowReg.cal c).addr 4 v s = .next (s.writeCal c v) := by
  rw [memWrite, accessReg?_addr]
  exact if_neg (by simp [h])

theorem memWrite_ctrl (v : Word) (s : State) :
    memWrite WindowReg.ctrl.addr 4 v s = .next (if v.getLsbD 0 then s.resetBlock else s) := by
  rw [memWrite, accessReg?_addr]

theorem memWrite_status (v : Word) (s : State) :
    memWrite WindowReg.status.addr 4 v s = .next (if v.getLsbD 16 then s.clearException else s) := by
  rw [memWrite, accessReg?_addr]

/-- What a read returns does not depend on the accesses to come. -/
theorem readWindow_withPending (s : State) (p : List HostEvent) (r : WindowReg) :
    { s with pending := p }.readWindow r = s.readWindow r := by
  cases r <;> rfl

theorem step_read_addr (s : State) (rest : List HostEvent) (r : WindowReg) :
    step { s with pending := .read r.addr 4 :: rest } =
      .next { s with pending := rest, readData := some (s.readWindow r) } := by
  rw [step_read, memRead_addr, readWindow_withPending]

/-- Settles O52: a read of a register's address returns the register, row by row of the map. -/
theorem hostReadReturnsTheRegister : Obligations.HostReadReturnsTheRegister := by
  intro s rest reads
  have hreads (r : WindowReg) : reads r.addr.toNat (s.readWindow r) := by
    change step { s with pending := .read (BitVec.ofNat 9 r.addr.toNat) 4 :: rest } = _
    rw [BitVec.ofNat_toNat, BitVec.setWidth_eq]
    exact step_read_addr s rest r
  refine ⟨hreads .id, hreads .ctrl, hreads .status, hreads .einfo, hreads .cmd, fun r => ?_, fun k => ?_, fun c => ?_,
    hreads .tfine, hreads .rdT100, hreads .rdRh10, hreads .rdPa, hreads .rdTpint, hreads .rdTpext, hreads .rdLux⟩
  · rw [← toNat_addr_x]; exact hreads (.x r)
  · rw [← toNat_addr_raw, zeros_append_eq_setWidth]; exact hreads (.raw k)
  · rw [← toNat_addr_cal]; exact hreads (.cal c)

/-- Settles O53: an access that finds no register is refused, a write to a read-only one too, and only a coefficient
answers between 0x0A0 and 0x0E8. -/
theorem refusedAccessesRaise : Obligations.RefusedAccessesRaise := by
  intro s rest a n v
  simp only [← captureAccess_eq]
  refine ⟨fun h => ?_, fun h => ?_, fun hn halign hlo hhi hcal => ?_⟩
  · rw [step_read, memRead_refused ((accessReg?_eq_none_iff a n).2 h)]
  · rw [step_write]
    by_cases hnone : n ≠ 4 ∨ a.toNat % 4 ≠ 0 ∨ reservedAddr a.toNat
    · exact memWrite_refused ((accessReg?_eq_none_iff a n).2 hnone) v _
    · push Not at hnone
      obtain ⟨rfl, halign, hres⟩ := hnone
      have hro : readOnlyAddr a.toNat := by simpa [halign, hres] using h
      obtain ⟨r, rfl⟩ := exists_addr_eq halign hres
      exact memWrite_readOnly ((readOnly_iff r).2 hro) v _
  · obtain ⟨r, rfl⟩ := exists_addr_eq halign (by unfold reservedAddr; omega)
    obtain ⟨c, rfl⟩ := cal_of_addr_range hlo hhi
    rw [hn, step_write]
    exact memWrite_cal_sealed c v hcal

/-- Settles O54: each register's write is one operation on the state, with that operation's frame. -/
theorem hostWritesStore : Obligations.HostWritesStore := by
  intro s rest v
  refine ⟨fun r => ⟨_, memWrite_x r v _, writesReg_setReg ..⟩, fun k => ⟨_, memWrite_raw k v _, ?_⟩,
    fun c hcal => ⟨_, memWrite_cal_unsealed c v hcal, writesCoef_writeCal ..⟩, fun hv => ?_⟩
  · exact ⟨rawByte_setRaw_same .., fun k' hne => rawByte_setRaw_ne _ _ _ _ hne, rfl⟩
  · exact (memWrite_ctrl v _).trans (by rw [hv]; rfl)

/-! ## Writing twice (20_memory.md R32) -/

theorem setReg_setReg_same (s : State) (r : Reg) (v v' : Word) : (s.setReg r v).setReg r v' = s.setReg r v' := by
  simp [State.setReg]

theorem setRaw_setRaw_same (s : State) (k : BitVec 3) (v v' : Byte) : (s.setRaw k v).setRaw k v' = s.setRaw k v' := by
  simp [State.setRaw]

theorem writeCal_writeCal_same (s : State) (c : Coef) (v v' : Word) :
    (s.writeCal c v).writeCal c v' = s.writeCal c v' := by
  cases c <;> rfl

theorem clearException_clearException (s : State) : s.clearException.clearException = s.clearException := rfl

/-- Settles O55: for each register that stores, the same write again finds its own result. -/
theorem hostWritesAreIdempotent : Obligations.HostWritesAreIdempotent := by
  intro s t r v hro hctrl hcmd hcal h
  cases r with
  | x r =>
    rw [memWrite_x] at h ⊢; cases h
    rw [setReg_setReg_same]
  | raw k =>
    rw [memWrite_raw] at h ⊢; cases h
    rw [setRaw_setRaw_same]
  | cal c =>
    have hopen := hcal c rfl
    rw [memWrite_cal_unsealed c v hopen] at h; cases h
    have hopen' : (s.writeCal c v).status.cal = false := hopen
    rw [memWrite_cal_unsealed c v hopen', writeCal_writeCal_same]
  | status =>
    rw [memWrite_status] at h ⊢; cases h
    split
    · rw [clearException_clearException]
    · rfl
  | ctrl => exact absurd rfl hctrl
  | cmd => exact absurd rfl hcmd
  | id | einfo | tfine | rdT100 | rdRh10 | rdPa | rdTpint | rdTpext | rdLux => cases hro

/-! ## What a command changes (20_memory.md R38, 41_control.md R52) -/

/-- A command leaves the host's port alone. -/
theorem CommandEffect.keeps_port {i : Instr} {s t : State} (h : CommandEffect s i t) :
    t.pending = s.pending ∧ t.readData = s.readData := by
  cases h with
  | raise => exact ⟨capture_pending .., capture_readData ..⟩
  | _ => exact ⟨rfl, rfl⟩

/-- From `s` to `t` no window register changes but those in `touched`. -/
structure ChangesOnly (touched : WindowReg → Bool) (s t : State) : Prop where
  kept : ∀ r : WindowReg, touched r = false → t.readWindow r = s.readWindow r

namespace ChangesOnly

variable {touched : WindowReg → Bool}

theorem refl (s : State) : ChangesOnly touched s s := ⟨fun _ _ => rfl⟩

theorem trans {s t u : State} (h : ChangesOnly touched s t) (h' : ChangesOnly touched t u) :
    ChangesOnly touched s u :=
  ⟨fun r hr => (h'.kept r hr).trans (h.kept r hr)⟩

/-! One rule per state operation: it is allowed where `touched` holds the registers it writes. -/

theorem setReg (s : State) {rd : Reg} (hrd : touched (.x rd) = true) (v : Word) :
    ChangesOnly touched s (s.setReg rd v) := by
  refine ⟨fun r hr => ?_⟩
  cases r with
  | x r =>
    have hne : r ≠ rd := by rintro rfl; cases hrd.symm.trans hr
    exact reg_setReg_ne _ _ _ _ hne
  | _ => rfl

theorem setRaw (s : State) {k : BitVec 3} (hk : touched (.raw k) = true) (v : Byte) :
    ChangesOnly touched s (s.setRaw k v) := by
  refine ⟨fun r hr => ?_⟩
  cases r with
  | raw k' =>
    have hne : k' ≠ k := by rintro rfl; cases hk.symm.trans hr
    exact congrArg (BitVec.setWidth 32) (rawByte_setRaw_ne _ _ _ _ hne)
  | _ => rfl

theorem writeCal (s : State) {c : Coef} (hc : touched (.cal c) = true) (v : Word) :
    ChangesOnly touched s (s.writeCal c v) := by
  refine ⟨fun r hr => ?_⟩
  cases r with
  | cal c' =>
    have hne : c' ≠ c := by rintro rfl; cases hc.symm.trans hr
    exact congrArg wordOf ((value_write s.cal c c' v Config.h45Signed).trans (if_neg hne))
  | _ => rfl

theorem status (s : State) (hstatus : touched .status = true) (st : Status) :
    ChangesOnly touched s { s with status := st } := by
  refine ⟨fun r hr => ?_⟩
  cases r with
  | status => cases hstatus.symm.trans hr
  | _ => rfl

theorem einfo (s : State) (heinfo : touched .einfo = true) (w : Word) :
    ChangesOnly touched s { s with einfo := w } := by
  refine ⟨fun r hr => ?_⟩
  cases r with
  | einfo => cases heinfo.symm.trans hr
  | _ => rfl

theorem tfine (s : State) (htfine : touched .tfine = true) (w : Word) :
    ChangesOnly touched s { s with tfine := w } := by
  refine ⟨fun r hr => ?_⟩
  cases r with
  | tfine => cases htfine.symm.trans hr
  | _ => rfl

theorem capture (s : State) (hstatus : touched .status = true) (heinfo : touched .einfo = true) (e : Cause)
    (w : Word) : ChangesOnly touched s (s.capture e w) := by
  cases herr : s.status.err with
  | false =>
    rw [capture_first _ _ _ herr]
    exact (einfo s heinfo w).trans (status { s with einfo := w } hstatus _)
  | true =>
    rw [capture_further _ _ _ herr]
    exact status s hstatus _

theorem storeTemp (s : State) (rd rs : Reg) (r : TempResult) :
    ChangesOnly (touches (.compt rd rs)) s (s.storeTemp rd r) :=
  have hstatus := (tfine s rfl (wordOf r.tf)).trans (status { s with tfine := wordOf r.tf } rfl _)
  hstatus.trans (setReg _ (by simp [touches]) _)

theorem storeHum (s : State) (rd rs : Reg) (r : HumResult) :
    ChangesOnly (touches (.comph rd rs)) s (s.storeHum rd r) :=
  (status s rfl _).trans (setReg _ (by simp [touches]) _)

theorem storePres (s : State) (rd rs : Reg) (r : PresResult) :
    ChangesOnly (touches (.compp rd rs)) s (s.storePres rd r) :=
  (status s rfl _).trans (setReg _ (by simp [touches]) _)

theorem storeSample (s : State) (t : TempResult) (h : HumResult) (p : PresResult) :
    ChangesOnly (touches .envsample) s (s.storeSample t h p) := by
  refine ⟨fun r hr => ?_⟩
  cases r with
  | status | tfine | rdT100 | rdRh10 | rdPa => cases hr
  | _ => rfl

theorem thermopile (s : State) (rs1 rs2 : Reg) (int ext : Word) (st : Status) :
    ChangesOnly (touches (.tpsample rs1 rs2)) s { s with rdTpint := int, rdTpext := ext, status := st } := by
  refine ⟨fun r hr => ?_⟩
  cases r with
  | status | rdTpint | rdTpext => cases hr
  | _ => rfl

theorem light (s : State) (rs : Reg) (lux : Word) (st : Status) :
    ChangesOnly (touches (.luxsample rs)) s { s with rdLux := lux, status := st } := by
  refine ⟨fun r hr => ?_⟩
  cases r with
  | status | rdLux => cases hr
  | _ => rfl

/-! The commands that write or raise. -/

/-- GETR raises on an ill-formed selector only; `touches` does not name the STATUS it would change then. -/
theorem getr {rd : Reg} {sel : BitVec 4} {s t : State} (hwf : (Instr.getr rd sel).wellFormed = true)
    (h : exec (.getr rd sel) s = .next t) : ChangesOnly (touches (.getr rd sel)) s t := by
  change execGetr rd sel s = .next t at h
  unfold execGetr at h
  split at h
  case h_1 => cases h; exact setReg _ (by simp [touches]) _
  case h_2 hnone => cases hwf.symm.trans (wellFormed_getr_of_none rd hnone)

theorem wcal {k : BitVec 5} {rs : Reg} {s t : State} (h : exec (.wcal k rs) s = .next t) :
    ChangesOnly (touches (.wcal k rs)) s t := by
  change execWcal k rs s = .next t at h
  unfold execWcal at h
  split at h
  case h_1 => cases h; exact capture _ rfl rfl _ _
  case h_2 c hc =>
    split at h
    case isTrue => cases h; exact capture _ rfl rfl _ _
    case isFalse => cases h; exact writeCal _ (by simp [touches, hc]) _

theorem unpkh45 {rs : Reg} {s t : State} (h : exec (.unpkh45 rs) s = .next t) :
    ChangesOnly (touches (.unpkh45 rs)) s t := by
  change execUnpkh45 rs s = .next t at h
  unfold execUnpkh45 at h
  split at h
  case isTrue => cases h; exact capture _ rfl rfl _ _
  case isFalse => cases h; exact (writeCal s rfl _).trans (writeCal _ rfl _)

theorem compt {rd rs : Reg} {s t : State} (h : exec (.compt rd rs) s = .next t) :
    ChangesOnly (touches (.compt rd rs)) s t := by
  obtain ⟨-, r, -, he⟩ | ⟨-, he⟩ := exec_compt_cases rd rs s <;> rw [he] at h <;> cases h
  · exact storeTemp s rd rs r
  · exact capture s rfl rfl _ _

theorem comph {rd rs : Reg} {s t : State} (h : exec (.comph rd rs) s = .next t) :
    ChangesOnly (touches (.comph rd rs)) s t := by
  obtain ⟨-, -, r, -, he⟩ | ⟨-, he⟩ | ⟨-, -, he⟩ := exec_comph_cases rd rs s <;> rw [he] at h <;> cases h
  · exact storeHum s rd rs r
  · exact capture s rfl rfl _ _
  · exact capture s rfl rfl _ _

theorem compp {rd rs : Reg} {s t : State} (h : exec (.compp rd rs) s = .next t) :
    ChangesOnly (touches (.compp rd rs)) s t := by
  obtain ⟨-, -, r, -, he⟩ | ⟨-, he⟩ | ⟨-, -, he⟩ := exec_compp_cases rd rs s <;> rw [he] at h <;> cases h
  · exact storePres s rd rs r
  · exact capture s rfl rfl _ _
  · exact capture s rfl rfl _ _

theorem envsample {s t : State} (h : exec .envsample s = .next t) : ChangesOnly (touches .envsample) s t := by
  obtain ⟨-, r, hum, pres, -, -, -, he⟩ | ⟨-, he⟩ := exec_envsample_cases s <;> rw [he] at h <;> cases h
  · exact storeSample s r hum pres
  · exact capture s rfl rfl _ _

end ChangesOnly

/-- Every well-formed command changes only what its rule names (41_control.md to 44_compensation.md). -/
theorem exec_changesOnly {i : Instr} {s t : State} (hwf : i.wellFormed = true) (h : exec i s = .next t) :
    ChangesOnly (touches i) s t := by
  cases i with
  | nop => cases h; exact .refl s
  | ldi | ldih | unpk20 | unpk16 | fld14 | lexp | lmant | tpdec | t32t10 | c10f10 | luxdec | c100f10 | painhg =>
    cases h; exact .setReg s (by simp [touches]) _
  | getr => exact .getr hwf h
  | setraw => cases h; exact .setRaw s (by simp [touches]) _
  | wcal => exact .wcal h
  | calseal | calopen => cases h; exact .status s rfl _
  | unpkh45 => exact .unpkh45 h
  | tpsample rs1 rs2 => cases h; exact .thermopile s rs1 rs2 _ _ _
  | luxsample rs => cases h; exact .light s rs _ _
  | compt => exact .compt h
  | comph => exact .comph h
  | compp => exact .compp h
  | envsample => exact .envsample h

/-- Settles O56: the registers by each command's own operations, the host's port by the kinds of effect. -/
theorem commandsChangeOnlyWhatTheyName : Obligations.CommandsChangeOnlyWhatTheyName :=
  fun _ _ _ hwf h => ⟨(exec_changesOnly hwf h).kept, (exec_effect h).keeps_port⟩

/-! ## The accesses to come wait (20_memory.md R35, R36) -/

/-- `s` with other accesses to come and nothing else changed. -/
def State.withPending (s : State) (p : List HostEvent) : State := { s with pending := p }

theorem capture_withPending (s : State) (e : Cause) (w : Word) (p : List HostEvent) :
    (s.withPending p).capture e w = (s.capture e w).withPending p := by
  unfold State.capture State.withPending
  split <;> rfl

theorem memRead_withPending (a : WindowAddr) (n : Nat) (s : State) (p : List HostEvent) :
    memRead a n (s.withPending p) = ((memRead a n s).1, (memRead a n s).2.withPending p) := by
  unfold memRead
  cases accessReg? a n with
  | some r => exact congrArg (·, s.withPending p) (readWindow_withPending s p r)
  | none => exact congrArg (0, ·) (capture_withPending s .hostAccess _ p)

theorem storeTemp_withPending (s : State) (rd : Reg) (r : TempResult) (p : List HostEvent) :
    (s.withPending p).storeTemp rd r = (s.storeTemp rd r).withPending p := rfl

theorem storeHum_withPending (s : State) (rd : Reg) (r : HumResult) (p : List HostEvent) :
    (s.withPending p).storeHum rd r = (s.storeHum rd r).withPending p := rfl

theorem storePres_withPending (s : State) (rd : Reg) (r : PresResult) (p : List HostEvent) :
    (s.withPending p).storePres rd r = (s.storePres rd r).withPending p := rfl

theorem storeSample_withPending (s : State) (t : TempResult) (h : HumResult) (r : PresResult) (p : List HostEvent) :
    (s.withPending p).storeSample t h r = (s.storeSample t h r).withPending p := rfl

/-- From `s` the operation `f` answers with a next state, and the same one but for `pending` whatever is to come. -/
def PendingWaits (f : State → Host.Outcome State Fault Refusal) (s : State) : Prop :=
  ∃ t, f s = .next t ∧ ∀ p, f (s.withPending p) = .next (t.withPending p)

namespace PendingWaits

variable {s : State}

theorem next {g : State → State} (hg : ∀ p, g (s.withPending p) = (g s).withPending p) :
    PendingWaits (fun s => .next (g s)) s :=
  ⟨g s, rfl, fun p => congrArg _ (hg p)⟩

theorem capture (e : Cause) (w : Word) (s : State) : PendingWaits (fun s => .next (s.capture e w)) s :=
  next fun p => capture_withPending s e w p

theorem ite {c : State → Bool} {f g : State → Host.Outcome State Fault Refusal}
    (hc : ∀ p, c (s.withPending p) = c s) (hf : PendingWaits f s) (hg : PendingWaits g s) :
    PendingWaits (fun s => if c s then f s else g s) s := by
  unfold PendingWaits
  simp only [hc]
  cases c s with
  | false => exact hg
  | true => exact hf

end PendingWaits

theorem getr_waits (rd : Reg) (sel : BitVec 4) (s : State) : PendingWaits (exec (.getr rd sel)) s := by
  have hselected (p) : (s.withPending p).selected? sel = s.selected? sel := rfl
  change PendingWaits (execGetr rd sel) s
  unfold PendingWaits execGetr
  simp only [hselected]
  cases s.selected? sel with
  | some v => exact ⟨_, rfl, fun _ => rfl⟩
  | none => exact PendingWaits.capture .illegalCmd _ s

theorem wcal_waits (k : BitVec 5) (rs : Reg) (s : State) : PendingWaits (exec (.wcal k rs)) s := by
  change PendingWaits (execWcal k rs) s
  unfold execWcal
  cases Coef.ofIndex? k.toNat with
  | none => exact .capture .illegalCmd _ s
  | some c => dsimp only; exact .ite (fun _ => rfl) (.capture .calLocked _ s) (.next fun _ => rfl)

/-- A command runs, and does the same whatever is to come. -/
theorem exec_waits (i : Instr) (s : State) : PendingWaits (exec i) s := by
  cases i with
  | getr rd sel => exact getr_waits rd sel s
  | wcal k rs => exact wcal_waits k rs s
  | unpkh45 rs => exact .ite (fun _ => rfl) (.capture .calLocked _ s) (.next fun _ => rfl)
  | compt rd rs => exact .ite (fun _ => rfl) (.next fun p => storeTemp_withPending s rd _ p) (.capture .nocal _ s)
  | comph rd rs =>
    exact .ite (fun _ => rfl)
      (.ite (fun _ => rfl) (.next fun p => storeHum_withPending s rd _ p) (.capture .notfine _ s)) (.capture .nocal _ s)
  | compp rd rs =>
    exact .ite (fun _ => rfl)
      (.ite (fun _ => rfl) (.next fun p => storePres_withPending s rd _ p) (.capture .notfine _ s)) (.capture .nocal _ s)
  | envsample => exact .ite (fun _ => rfl) (.next fun p => storeSample_withPending s _ _ _ p) (.capture .nocal _ s)
  | _ => exact .next fun _ => rfl

theorem executeWord_waits (w : Word) (s : State) : PendingWaits (executeWord w) s := by
  unfold executeWord
  cases decode w with
  | ok i => exact exec_waits i s
  | error => exact .capture .illegalCmd w s

theorem memWrite_waits (a : WindowAddr) (n : Nat) (v : Word) (s : State) : PendingWaits (memWrite a n v) s := by
  unfold memWrite
  cases accessReg? a n with
  | none => exact .capture .hostAccess _ s
  | some r =>
    cases r with
    | x | raw => exact .next fun _ => rfl
    | cal => exact .ite (fun _ => rfl) (.capture .calLocked _ s) (.next fun _ => rfl)
    | ctrl | status => exact .next fun _ => by split <;> rfl
    | cmd => exact executeWord_waits v s
    | id | einfo | tfine | rdT100 | rdRh10 | rdPa | rdTpint | rdTpext | rdLux => exact .capture .hostAccess _ s

/-- An access completes, and does the same whatever is to come. -/
theorem serve_waits (e : HostEvent) (s : State) : PendingWaits (serve e) s := by
  cases e with
  | read a n => exact .next fun p => by rw [memRead_withPending]; rfl
  | write a n v => exact memWrite_waits a n v s
  | resetSignal => exact .next fun _ => rfl

theorem step_withPending_cons (s : State) (e : HostEvent) (p : List HostEvent) :
    step (s.withPending (e :: p)) = serve e (s.withPending p) := rfl

theorem run_succ {s t : State} (h : step s = .next t) (k : Nat) : core.run (k + 1) s = core.run k t := by
  simp only [Host.Core.run, core, h]

theorem run_eq_serveAll (es rest : List HostEvent) (s : State) :
    core.run es.length (s.withPending (es ++ rest)) = serveAll es (s.withPending rest) := by
  induction es generalizing s with
  | nil => rfl
  | cons e es ih =>
    obtain ⟨t, -, ht⟩ := serve_waits e s
    have hstep := (step_withPending_cons s e (es ++ rest)).trans (ht (es ++ rest))
    rw [serveAll, ht rest]
    exact (run_succ hstep es.length).trans (ih t)

/-- Settles O9: each step serves the front access, and what it does is the same whatever is to come. -/
theorem hostAccessesApplyInOrder : Obligations.HostAccessesApplyInOrder :=
  run_eq_serveAll

end Sys2Proof.Machine
end

section
/-! PROOFS. The command words of 30_encoding.md: a word that passes its format's mask from its fields, the decoder of R47
as the inverse of the encoder on well-formed commands, what R48 makes illegal, and the pseudo-instructions of R50. -/

namespace Sys2Proof.Machine

/-! ## A word from its fields (30_encoding.md R41, R42) -/

theorem high_append_low {m n : Nat} (v : BitVec (m + n)) : v.extractLsb' n m ++ v.extractLsb' 0 n = v :=
  (BitVec.extractLsb'_append_extractLsb'_eq_extractLsb' (Nat.zero_add n).symm).trans BitVec.extractLsb'_eq_self

theorem eq_zero_append_low {m n : Nat} {v : BitVec (m + n)} (h : v.extractLsb' n m = 0) :
    v = 0#m ++ v.extractLsb' 0 n :=
  (high_append_low v).symm.trans (congrArg (· ++ _) h)

theorem eq_high_append_zero {m n : Nat} {v : BitVec (m + n)} (h : v.extractLsb' 0 n = 0) :
    v = v.extractLsb' n m ++ 0#n :=
  (high_append_low v).symm.trans (congrArg (_ ++ ·) h)

theorem packWord_of_fields {w : Word} {o : Op} {a b : BitVec 4} {c : BitVec 16} (hop : opField w = o.code)
    (ha : aField w = a) (hb : bField w = b) (hc : cField w = c) : packWord o a b c = w := by
  subst ha hb hc
  exact pack_fields w o hop

/-! For each format, a word that passes its mask is packed from its operand fields alone: the converse of `masked_n` to
`masked_p`. -/

section
variable {w : Word} {o : Op} (hop : opField w = o.code)
include hop

theorem packWord_of_mask_n (h : w &&& Format.mask .n = o.matchWord) : packWord o 0 0 0 = w := by
  obtain ⟨ha, hb, hc⟩ := (mask_n w o hop).1 h
  exact packWord_of_fields hop ha hb hc

theorem packWord_of_mask_i (h : w &&& Format.mask .i = o.matchWord) : packWord o (aField w) 0 (cField w) = w :=
  packWord_of_fields hop rfl ((mask_i w o hop).1 h) rfl

theorem packWord_of_mask_r (h : w &&& Format.mask .r = o.matchWord) : packWord o (aField w) (bField w) 0 = w :=
  packWord_of_fields hop rfl rfl ((mask_r w o hop).1 h)

theorem packWord_of_mask_u (h : w &&& Format.mask .u = o.matchWord) : packWord o 0 (bField w) 0 = w := by
  obtain ⟨ha, hc⟩ := (mask_u w o hop).1 h
  exact packWord_of_fields hop ha rfl hc

theorem packWord_of_mask_g (h : w &&& Format.mask .g = o.matchWord) :
    packWord o (aField w) 0 (0#12 ++ (cField w).extractLsb' 0 4) = w := by
  obtain ⟨hb, hc⟩ := (mask_g w o hop).1 h
  exact packWord_of_fields hop rfl hb (eq_zero_append_low (m := 12) ((extract_cField w 4 12 (by omega)).trans hc))

theorem packWord_of_mask_s (h : w &&& Format.mask .s = o.matchWord) :
    packWord o 0 (bField w) (0#13 ++ (cField w).extractLsb' 0 3) = w := by
  obtain ⟨ha, hc⟩ := (mask_s w o hop).1 h
  exact packWord_of_fields hop ha rfl (eq_zero_append_low (m := 13) ((extract_cField w 3 13 (by omega)).trans hc))

theorem packWord_of_mask_k (h : w &&& Format.mask .k = o.matchWord) :
    packWord o 0 (bField w) (0#11 ++ (cField w).extractLsb' 0 5) = w := by
  obtain ⟨ha, hc⟩ := (mask_k w o hop).1 h
  exact packWord_of_fields hop ha rfl (eq_zero_append_low (m := 11) ((extract_cField w 5 11 (by omega)).trans hc))

theorem packWord_of_mask_p (h : w &&& Format.mask .p = o.matchWord) :
    packWord o 0 (bField w) ((cField w).extractLsb' 12 4 ++ 0#12) = w := by
  obtain ⟨ha, hc⟩ := (mask_p w o hop).1 h
  exact packWord_of_fields hop ha rfl (eq_high_append_zero (m := 4) ((extract_cField w 0 12 (by omega)).trans hc))

end

/-! ## Decoding and encoding are inverse (30_encoding.md R47) -/

/-- The decoder gives a well-formed command its word's row, and the row's command from its fields. -/
theorem decode_encode {i : Instr} (hwf : i.wellFormed = true) : decode (encode i) = .ok i := by
  cases i with
  | nop | calseal | calopen | envsample => exact decode_packed _ 0 0 0 (masked_n _)
  | ldi rd imm | ldih rd imm => exact decode_packed _ rd 0 imm (masked_i _ rd imm)
  | getr rd sel => exact (decode_encode_getr rd sel).trans (if_pos (of_decide_eq_true hwf))
  | setraw k rs =>
    exact (decode_packed .setraw 0 rs (0#13 ++ k) (masked_s _ rs k)).trans (by rw [Op.build, byteIndex_field])
  | wcal k rs => exact (decode_encode_wcal k rs).trans (if_pos (of_decide_eq_true hwf))
  | unpkh45 rs | luxsample rs => exact decode_packed _ 0 rs 0 (masked_u _ rs)
  | tpsample rs1 rs2 =>
    exact (decode_packed .tpsample 0 rs1 (rs2 ++ 0#12) (masked_p _ rs1 rs2)).trans (by rw [Op.build, rs2_field])
  | unpk20 rd rs | unpk16 rd rs | fld14 rd rs | lexp rd rs | lmant rd rs | tpdec rd rs | t32t10 rd rs | c10f10 rd rs
  | luxdec rd rs | c100f10 rd rs | painhg rd rs | compt rd rs | comph rd rs | compp rd rs =>
    exact decode_packed _ rd rs 0 (masked_r _ rd rs)

/-- What a word that decodes is: its OP is a row's, it passes the row's mask, and the row builds the command. -/
theorem decode_eq_ok {w : Word} {i : Instr} (h : decode w = .ok i) :
    ∃ o : Op, opField w = o.code ∧ w &&& o.format.mask = o.matchWord ∧
      o.build (aField w) (bField w) (cField w) = .ok i := by
  by_cases hrow : ∃ o : Op, opField w = o.code
  · obtain ⟨o, hop⟩ := hrow
    rw [decode_of_op w o hop] at h
    by_cases hmask : w &&& o.format.mask = o.matchWord
    · exact ⟨o, hop, hmask, (if_pos hmask).symm.trans h⟩
    · cases (if_neg hmask).symm.trans h
  · cases (decode_of_no_op w (not_exists.1 hrow)).symm.trans h

theorem build_getr_eq_ok {a b : BitVec 4} {c : BitVec 16} {i : Instr} (h : Op.build .getr a b c = .ok i) :
    (c.extractLsb' 0 4).toNat ≤ 7 ∧ i = .getr a (c.extractLsb' 0 4) := by
  simp only [Op.build] at h
  split at h <;> cases h
  exact ⟨‹_›, rfl⟩

theorem build_wcal_eq_ok {a b : BitVec 4} {c : BitVec 16} {i : Instr} (h : Op.build .wcal a b c = .ok i) :
    (c.extractLsb' 0 5).toNat ≤ 17 ∧ i = .wcal (c.extractLsb' 0 5) b := by
  simp only [Op.build] at h
  split at h <;> cases h
  exact ⟨‹_›, rfl⟩

/-- With no reserved bit set, the command a row builds from a word's fields is well-formed and has that word. -/
theorem encode_of_build {w : Word} {o : Op} {i : Instr} (hop : opField w = o.code)
    (hmask : w &&& o.format.mask = o.matchWord) (hbuild : o.build (aField w) (bField w) (cField w) = .ok i) :
    encode i = w ∧ i.wellFormed = true := by
  cases o with
  | nop | calseal | calopen | envsample => cases hbuild; exact ⟨packWord_of_mask_n hop hmask, rfl⟩
  | ldi | ldih => cases hbuild; exact ⟨packWord_of_mask_i hop hmask, rfl⟩
  | getr =>
    obtain ⟨hsel, rfl⟩ := build_getr_eq_ok hbuild
    exact ⟨packWord_of_mask_g hop hmask, decide_eq_true hsel⟩
  | setraw => cases hbuild; exact ⟨packWord_of_mask_s hop hmask, rfl⟩
  | wcal =>
    obtain ⟨hk, rfl⟩ := build_wcal_eq_ok hbuild
    exact ⟨packWord_of_mask_k hop hmask, decide_eq_true hk⟩
  | unpkh45 | luxsample => cases hbuild; exact ⟨packWord_of_mask_u hop hmask, rfl⟩
  | tpsample => cases hbuild; exact ⟨packWord_of_mask_p hop hmask, rfl⟩
  | unpk20 | unpk16 | fld14 | lexp | lmant | tpdec | t32t10 | c10f10 | luxdec | c100f10 | painhg | compt | comph
  | compp => cases hbuild; exact ⟨packWord_of_mask_r hop hmask, rfl⟩

theorem encode_of_decode {w : Word} {i : Instr} (h : decode w = .ok i) : encode i = w ∧ i.wellFormed = true := by
  obtain ⟨o, hop, hmask, hbuild⟩ := decode_eq_ok h
  exact encode_of_build hop hmask hbuild

theorem encode_injective_of_wellFormed {i j : Instr} (hi : i.wellFormed = true) (hj : j.wellFormed = true)
    (h : encode j = encode i) : j = i :=
  Except.ok.inj ((decode_encode hj).symm.trans ((congrArg decode h).trans (decode_encode hi)))

/-- Settles O1: each command's word passes its format's mask and gives its fields back. -/
theorem decodeOfEncodeIsTheCommand : Obligations.DecodeOfEncodeIsTheCommand :=
  fun _ => decode_encode

/-- Settles O2: a word under its row's mask is the word packed from its operand fields. -/
theorem encodeOfDecodeIsTheWord : Obligations.EncodeOfDecodeIsTheWord :=
  fun _ _ => encode_of_decode

/-- Settles O3: by what the decoder answers, which both round trips tie to the encoder. -/
theorem everyWordIsOneCommandOrIllegal : Obligations.EveryWordIsOneCommandOrIllegal := by
  intro w s
  cases hw : decode w with
  | ok i =>
    obtain ⟨rfl, hwf⟩ := encode_of_decode hw
    exact .inl ⟨i, hwf, rfl, fun j hj => encode_injective_of_wellFormed hwf hj, executeWord_ok hw s⟩
  | error d =>
    refine .inr ⟨fun i hwf hi => ?_, executeWord_error hw s⟩
    subst hi
    cases hw.symm.trans (decode_encode hwf)

/-! ## Illegal words (30_encoding.md R48) -/

theorem code_ranges (o : Op) :
    o.code.toNat ≤ 0x07 ∨ (0x10 ≤ o.code.toNat ∧ o.code.toNat ≤ 0x15) ∨ (0x20 ≤ o.code.toNat ∧ o.code.toNat ≤ 0x27) ∨
      (0x30 ≤ o.code.toNat ∧ o.code.toNat ≤ 0x33) := by
  cases o <;> decide

theorem opField_mask (f : Format) : f.mask.extractLsb' 24 8 = 255#8 := by cases f <;> rfl

/-- The four ranges of R48 are where no row's OP lies. -/
theorem executeWord_of_unassigned {w : Word}
    (h : (0x08 ≤ (opField w).toNat ∧ (opField w).toNat ≤ 0x0F) ∨ (0x16 ≤ (opField w).toNat ∧ (opField w).toNat ≤ 0x1F) ∨
      (0x28 ≤ (opField w).toNat ∧ (opField w).toNat ≤ 0x2F) ∨ 0x34 ≤ (opField w).toNat) (s : State) :
    executeWord w s = illegal w s := by
  have hno : ∀ o : Op, opField w ≠ o.code := fun o hop => by
    have hcode := code_ranges o
    rw [← hop] at hcode
    omega
  exact executeWord_error (decode_of_no_op w hno) s

theorem executeWord_of_reservedBit {w : Word} {o : Op} {b : Nat} (hop : opField w = o.code) (hb : b < 24)
    (hmask : o.format.mask.getLsbD b = true) (hw : w.getLsbD b = true) (s : State) :
    executeWord w s = illegal w s := by
  have hfails : w &&& o.format.mask ≠ o.matchWord := fun heq =>
    Bool.false_ne_true (((mask_eq_iff w _ o hop (opField_mask _)).1 heq b hb hmask).symm.trans hw)
  exact executeWord_error ((decode_of_op w o hop).trans (if_neg hfails)) s

/-- Settles O4: no row's OP lies in the four ranges, the last of which holds that of all ones, and a reserved bit fails
the row's mask. -/
theorem unassignedOpAndReservedBitsAreIllegal : Obligations.UnassignedOpAndReservedBitsAreIllegal :=
  ⟨fun _ s h => executeWord_of_unassigned h s,
    fun _ s _ _ hop hb hmask hw => executeWord_of_reservedBit hop hb hmask hw s,
    fun s => ⟨executeWord_ok (decode_encode (i := .nop) rfl) s, rfl⟩,
    fun s => executeWord_of_unassigned (.inr (.inr (.inr (by decide)))) s⟩

/-! ## Pseudo-instructions (30_encoding.md R50) -/

theorem halfOf_immLow (imm : BitVec 16) : halfOf (immLow imm) = imm := by
  unfold halfOf immLow
  rw [BitVec.extractLsb'_setWidth_of_le (by decide), BitVec.extractLsb'_eq_self]

/-- LDIH's value is the immediate put before the old low half (R44). -/
theorem immHigh_eq_append (imm : BitVec 16) (old : Word) : immHigh imm old = imm ++ halfOf old := by
  have himm := imm.isLt
  have hlow := (halfOf old).isLt
  have happend : (imm ++ halfOf old).toNat = imm.toNat * 2 ^ 16 + (halfOf old).toNat := by
    rw [BitVec.toNat_append, ← Nat.shiftLeft_add_eq_or_of_lt hlow, Nat.shiftLeft_eq]
  have hvalue := toNat_wordOf_of_range ((imm.toNat : Int) * pow2 16 + ((halfOf old).toNat : Int))
  apply BitVec.eq_of_toNat_eq
  rw [happend]
  unfold immHigh
  simp only [pow2] at hvalue ⊢
  omega

theorem immHigh_immLow (imm : Word) : immHigh (imm.extractLsb' 16 16) (immLow (imm.extractLsb' 0 16)) = imm := by
  rw [immHigh_eq_append, halfOf_immLow]
  exact high_append_low (m := 16) (n := 16) imm

theorem exec_ldi (rd : Reg) (imm : BitVec 16) (s : State) :
    exec (.ldi rd imm) s = .next (s.setReg rd (immLow imm)) := rfl

theorem exec_ldih (rd : Reg) (imm : BitVec 16) (s : State) :
    exec (.ldih rd imm) s = .next (s.setReg rd (immHigh imm (s.reg rd))) := rfl

theorem exec_ldih_setReg_immLow (rd : Reg) (imm : Word) (s : State) :
    exec (.ldih rd (imm.extractLsb' 16 16)) (s.setReg rd (immLow (imm.extractLsb' 0 16))) =
      .next (s.setReg rd imm) := by
  rw [exec_ldih, reg_setReg_same, immHigh_immLow, setReg_setReg_same]

theorem assemblePseudo_eq_none {name : List Char} (hli32 : name ≠ "LI32".toList) (hclr : name ≠ "CLR".toList)
    (htpread : name ≠ "TPREAD".toList) (ops : List (List Char)) : assemblePseudo name ops = none := by
  unfold assemblePseudo
  rw [if_neg (mt eq_of_beq hli32), if_neg (mt eq_of_beq hclr), if_neg (mt eq_of_beq htpread)]

/-- Settles O60: LDIH puts the high half before the low half that LDI wrote, and the assembler tests three names. -/
theorem pseudoInstructionsExpand : Obligations.PseudoInstructionsExpand := by
  refine ⟨fun rd imm s => ⟨rfl, _, _, exec_ldi .., exec_ldih_setReg_immLow rd imm s, writesReg_setReg ..⟩,
    fun _ => rfl, fun _ _ => rfl, fun name ops is h => ?_⟩
  by_contra hother
  simp only [not_or] at hother
  obtain ⟨hli32, hclr, htpread⟩ := hother
  cases (assemblePseudo_eq_none hli32 hclr htpread ops).symm.trans h

/-! ## Sample words (30_encoding.md R49) and the OP values (R46) -/

theorem code_injective {o o' : Op} (h : o.code = o'.code) : o = o' :=
  Option.some.inj ((ofCode?_code o).symm.trans ((congrArg Op.ofCode? h).trans (ofCode?_code o')))

theorem all_nodup : Op.all.Nodup := by decide

/-- Settles O5: each sample is the word of a well-formed command, and the rows differ, so their OP values do. -/
theorem sampleWordsDecodeAndRowsDiffer : Obligations.SampleWordsDecodeAndRowsDiffer :=
  ⟨decode_encode (i := .nop) rfl, decode_encode (i := .ldi 1 0x0C80#16) rfl, decode_encode (i := .getr 3 4) rfl,
    decode_encode (i := .setraw 3 2) rfl, decode_encode (i := .wcal 1 4) rfl, decode_encode (i := .unpkh45 5) rfl,
    decode_encode (i := .c10f10 4 3) rfl, decode_encode (i := .tpsample 1 2) rfl, decode_encode (i := .envsample) rfl,
    rfl, all_nodup.imp fun hne heq => hne (code_injective heq)⟩

end Sys2Proof.Machine
end

section
/-! PROOFS. The control and data-movement commands of 41_control.md: the rows of their formats, what each command does
as one equation per case, and the seal rule R62 over every step and every run. -/

namespace Sys2Proof.Machine

/-! ## The burst, trim and selector commands by case (41_control.md R57 to R59) -/

/-- The registers a selector names, in its order (30_encoding.md R45). -/
theorem selected?_of_le (s : State) {sel : BitVec 4} (h : sel.toNat ≤ 7) :
    s.selected? sel = some ([s.tfine, s.rdT100, s.rdRh10, s.rdPa, s.rdTpint, s.rdTpext, s.rdLux, s.status.toWord].getD
      sel.toNat 0) := by
  unfold State.selected?
  generalize sel.toNat = n at h
  interval_cases n <;> rfl

theorem exec_getr_of_some {sel : BitVec 4} {s : State} {v : Word} (h : s.selected? sel = some v) (rd : Reg) :
    exec (.getr rd sel) s = .next (s.setReg rd v) := by
  change execGetr rd sel s = _
  rw [execGetr, h]

theorem exec_getr_of_none {sel : BitVec 4} {s : State} (h : s.selected? sel = none) (rd : Reg) :
    exec (.getr rd sel) s = illegal (encode (.getr rd sel)) s := by
  change execGetr rd sel s = _
  rw [execGetr, h]
  rfl

theorem exec_setraw (k : BitVec 3) (rs : Reg) (s : State) :
    exec (.setraw k rs) s = .next (s.setRaw k ((s.reg rs).extractLsb' 0 8)) := rfl

theorem exec_wcal_unsealed {k : BitVec 5} {c : Coef} {s : State} (hk : Coef.ofIndex? k.toNat = some c)
    (hcal : s.status.cal = false) (rs : Reg) : exec (.wcal k rs) s = .next (s.writeCal c (s.reg rs)) := by
  change execWcal k rs s = _
  rw [execWcal, hk]
  exact if_neg (by simp [hcal])

theorem exec_wcal_sealed {k : BitVec 5} {c : Coef} {s : State} (hk : Coef.ofIndex? k.toNat = some c)
    (hcal : s.status.cal = true) (rs : Reg) :
    exec (.wcal k rs) s = .next (s.capture .calLocked (encode (.wcal k rs))) := by
  change execWcal k rs s = _
  rw [execWcal, hk]
  exact if_pos hcal

theorem exec_wcal_of_none {k : BitVec 5} (hk : Coef.ofIndex? k.toNat = none) (rs : Reg) (s : State) :
    exec (.wcal k rs) s = illegal (encode (.wcal k rs)) s := by
  change execWcal k rs s = _
  rw [execWcal, hk]
  rfl

theorem ofIndex?_toNat_index (c : Coef) : Coef.ofIndex? (BitVec.ofNat 5 c.index).toNat = some c := by
  have hle := index_le c
  rw [BitVec.toNat_ofNat, Nat.mod_eq_of_lt (by omega), ofIndex?_index]

/-! ## The word of any command, and a row's words (30_encoding.md R42, R46, R47) -/

theorem exec_of_illFormed {i : Instr} (h : i.wellFormed = false) (s : State) : exec i s = illegal (encode i) s := by
  cases i <;> simp only [Instr.wellFormed, Bool.true_eq_false, decide_eq_false_iff_not] at h
  case getr rd sel => exact exec_getr_of_none (selected?_of_gt s sel (by omega)) rd
  case wcal k rs => exact exec_wcal_of_none (ofIndex?_of_gt _ (by omega)) rs s

/-- Executing the word of a command is executing the command, one with an illegal index included: its word does not
decode, and the command itself raises the same exception. -/
theorem executeWord_encode (i : Instr) (s : State) : executeWord (encode i) s = exec i s := by
  cases hwf : i.wellFormed with
  | true => exact executeWord_ok (decode_encode hwf) s
  | false =>
    obtain ⟨d, hd⟩ := decode_encode_of_illFormed hwf
    exact (executeWord_error hd s).trans (exec_of_illFormed hwf s).symm

/-- A row's word is executed as the command it is the word of when it passes the mask, and is illegal when not. -/
theorem executeWord_of_row {w : Word} {o : Op} {i : Instr} {zeros : Prop} [Decidable zeros] (hop : opField w = o.code)
    (hmask : w &&& o.format.mask = o.matchWord ↔ zeros) (hword : w &&& o.format.mask = o.matchWord → encode i = w)
    (s : State) : executeWord w s = if zeros then exec i s else illegal w s := by
  split
  case isTrue hzeros => rw [← executeWord_encode, hword (hmask.2 hzeros)]
  case isFalse hzeros => exact executeWord_error ((decode_of_op w o hop).trans (if_neg (mt hmask.1 hzeros))) s

/-- A word whose field C has two parts is all five parts in a row; for parts of known width the casts are identities. -/
theorem packWord_append (o : Op) (a b : BitVec 4) {m n : Nat} (v : BitVec m) (v' : BitVec n) (h : m + n = 16) :
    packWord o a b ((v ++ v').cast h) = (o.code ++ a ++ b ++ v ++ v').cast (by omega) := by
  rw [BitVec.append_assoc (x₂ := v), BitVec.cast_cast]
  exact (BitVec.cast_append_right (by omega) _ _).symm

section
variable {o : Op}

theorem rowN {i : Instr} (hformat : o.format = .n) (hencode : encode i = packWord o 0 0 0) : RowN o.code i := by
  refine ⟨hencode, fun w s hop => executeWord_of_row hop ?_ ?_ s⟩ <;> rw [hformat]
  · exact mask_n w o hop
  · exact fun h => hencode.trans (packWord_of_mask_n hop h)

theorem rowI {f : Reg → BitVec 16 → Instr} (hformat : o.format = .i)
    (hencode : ∀ rd imm, encode (f rd imm) = packWord o rd 0 imm) : RowI o.code f := by
  refine ⟨hencode, fun w s hop => executeWord_of_row hop ?_ ?_ s⟩ <;> rw [hformat]
  · exact mask_i w o hop
  · exact fun h => (hencode ..).trans (packWord_of_mask_i hop h)

theorem rowG {f : Reg → BitVec 4 → Instr} (hformat : o.format = .g)
    (hencode : ∀ rd sel, encode (f rd sel) = packWord o rd 0 (0#12 ++ sel)) : RowG o.code f := by
  refine ⟨fun rd sel => (hencode rd sel).trans (packWord_append o rd 0 0#12 sel rfl),
    fun w s hop => executeWord_of_row hop ?_ ?_ s⟩ <;> rw [hformat]
  · exact mask_g w o hop
  · rw [← extract_cField w 0 4 (by omega)]
    exact fun h => (hencode ..).trans (packWord_of_mask_g hop h)

theorem rowS {f : BitVec 3 → Reg → Instr} (hformat : o.format = .s)
    (hencode : ∀ k rs, encode (f k rs) = packWord o 0 rs (0#13 ++ k)) : RowS o.code f := by
  refine ⟨fun k rs => (hencode k rs).trans (packWord_append o 0 rs 0#13 k rfl),
    fun w s hop => executeWord_of_row hop ?_ ?_ s⟩ <;> rw [hformat]
  · exact mask_s w o hop
  · rw [← extract_cField w 0 3 (by omega)]
    exact fun h => (hencode ..).trans (packWord_of_mask_s hop h)

theorem rowK {f : BitVec 5 → Reg → Instr} (hformat : o.format = .k)
    (hencode : ∀ k rs, encode (f k rs) = packWord o 0 rs (0#11 ++ k)) : RowK o.code f := by
  refine ⟨fun k rs => (hencode k rs).trans (packWord_append o 0 rs 0#11 k rfl),
    fun w s hop => executeWord_of_row hop ?_ ?_ s⟩ <;> rw [hformat]
  · exact mask_k w o hop
  · rw [← extract_cField w 0 5 (by omega)]
    exact fun h => (hencode ..).trans (packWord_of_mask_k hop h)

end

/-! ## The seal rule (41_control.md R62) -/

/-- What a step keeps, a run of any length keeps. -/
theorem run_keeps {P : State → Prop} (hstep : ∀ s t, P s → step s = .next t → P t) {n : Nat} {s t : State}
    (h : core.run n s = .next t) (hs : P s) : P t := by
  induction n generalizing s with
  | zero => cases h; exact hs
  | succ n ih =>
    cases hnext : step s with
    | next u => exact ih ((run_succ hnext n).symm.trans h) (hstep s u hs hnext)
    | fault r => cases r
    | refused r => simp only [Host.Core.run, core, hnext] at h; cases h

/-- CALOPEN is the one command that clears CAL, and it clears TFV with it. -/
theorem exec_unseals {i : Instr} {s t : State} (h : exec i s = .next t) (hs : s.status.cal = true)
    (ht : t.status.cal = false) : i = .calopen ∧ t.status.tfv = false := by
  obtain ⟨hcal, -⟩ := validBitsAndFlagsChangeOnlyAsListed.1 i s t h
  obtain ⟨-, hseal⟩ | ⟨rfl, -⟩ := hcal (by simp [hs, ht])
  · cases ht.symm.trans hseal
  · cases h; exact ⟨rfl, rfl⟩

theorem step_unseals {s t : State} (h : step s = .next t) (hs : s.status.cal = true) (ht : t.status.cal = false) :
    (Serves s .calopen ∨ ServesReset s) ∧ t.status.tfv = false := by
  obtain ⟨i, rest, hserves, hexec⟩ | ⟨hreset, hzero⟩ | ⟨hcal, -⟩ := step_status_cases s t h
  · obtain ⟨rfl, htfv⟩ := exec_unseals hexec hs ht
    exact ⟨.inl hserves, htfv⟩
  · exact ⟨.inr hreset, by rw [hzero]; rfl⟩
  · cases hs.symm.trans (hcal.symm.trans ht)

theorem step_sets_tfv {s t : State} (h : step s = .next t) (hs : s.status.tfv = false) (ht : t.status.tfv = true) :
    s.status.cal = true ∧ ((∃ rd rs, Serves s (.compt rd rs)) ∨ Serves s .envsample) := by
  obtain ⟨-, htfv, -⟩ := validBitsAndFlagsChangeOnlyAsListed.2 s t h
  obtain ⟨-, hclear⟩ | ⟨hserves, -, hcal⟩ := htfv (by simp [hs, ht])
  · cases ht.symm.trans hclear
  · exact ⟨hcal, hserves⟩

/-- TFV without CAL could only come from a step that sets TFV, which asks for CAL, or from one that clears CAL, which
clears TFV. -/
theorem step_keeps_tfv_needs_cal {s t : State} (hs : s.status.tfv = true → s.status.cal = true)
    (h : step s = .next t) (ht : t.status.tfv = true) : t.status.cal = true := by
  have hscal : s.status.cal = true := by
    cases htfv : s.status.tfv with
    | true => exact hs htfv
    | false => exact (step_sets_tfv h htfv ht).1
  cases htcal : t.status.cal with
  | true => rfl
  | false => cases ht.symm.trans (step_unseals h hscal htcal).2

/-- Settles O12: runs from reset by induction over the steps, each of which keeps the implication by what sets TFV and
what clears CAL. -/
theorem tfvImpliesCalInEveryReachableState : Obligations.TfvImpliesCalInEveryReachableState :=
  ⟨fun _ _ _ hrun => run_keeps (P := fun s => s.status.tfv = true → s.status.cal = true)
      (fun _ _ hs h => step_keeps_tfv_needs_cal hs h) hrun stateInv_reset.tfv_needs_cal,
    fun _ _ h hs => step_keeps_tfv_needs_cal hs h, fun _ _ => step_sets_tfv, fun _ _ => step_unseals⟩

/-! ## The commands (41_control.md R54 to R61) -/

/-- Settles O14: a row of format N, and the command's next state is the state. -/
theorem nopDoesNothing : Obligations.NopDoesNothing :=
  ⟨rowN (o := .nop) rfl rfl, fun _ => rfl⟩

/-- Settles O15: zero extension puts zeros above the immediate. -/
theorem ldiWritesTheImmediate : Obligations.LdiWritesTheImmediate := by
  refine ⟨rowI (o := .ldi) rfl fun _ _ => rfl, fun rd imm s => ⟨_, exec_ldi rd imm s, ?_⟩⟩
  rw [zeros_append_eq_setWidth]
  exact writesReg_setReg ..

/-- Settles O16: the value LDIH computes is the immediate put before the old low half. -/
theorem ldihKeepsTheLowHalf : Obligations.LdihKeepsTheLowHalf := by
  refine ⟨rowI (o := .ldih) rfl fun _ _ => rfl, fun rd imm s => ⟨_, exec_ldih rd imm s, ?_⟩⟩
  rw [immHigh_eq_append]
  exact writesReg_setReg ..

/-- Settles O17: by whether the selector names a register. -/
theorem getrCopiesTheSelectedRegister : Obligations.GetrCopiesTheSelectedRegister :=
  ⟨rowG (o := .getr) rfl fun _ _ => rfl,
    fun rd _ s h => ⟨_, exec_getr_of_some (selected?_of_le s h) rd, writesReg_setReg ..⟩,
    fun rd sel s h => exec_getr_of_none (selected?_of_gt s sel h) rd⟩

/-- Settles O18: SETRAW is one write of the burst buffer, with that operation's frame. -/
theorem setrawWritesOneByte : Obligations.SetrawWritesOneByte :=
  ⟨rowS (o := .setraw) rfl fun _ _ => rfl, fun k rs s =>
    ⟨_, exec_setraw k rs s, rawByte_setRaw_same .., fun _ hne => rawByte_setRaw_ne _ _ _ _ hne, rfl⟩⟩

/-- Settles O19: by whether the index names a coefficient, and then by the seal. -/
theorem wcalWritesOneCoefficient : Obligations.WcalWritesOneCoefficient := by
  refine ⟨rowK (o := .wcal) rfl fun _ _ => rfl, fun c rs s hcal => ?_, fun k rs s hk hcal => ?_,
    fun k rs s hk => ?_⟩
  · exact ⟨_, exec_wcal_unsealed (ofIndex?_toNat_index c) hcal rs, writesCoef_writeCal ..⟩
  · obtain ⟨c, hc, -⟩ := ofIndex?_of_le k.toNat hk
    exact exec_wcal_sealed hc hcal rs
  · exact exec_wcal_of_none (ofIndex?_of_gt _ hk) rs s

/-- Settles O20: two rows of format N; each command's one write is to the seal bits of STATUS. -/
theorem calsealAndCalopenChangeOnlyTheSeal : Obligations.CalsealAndCalopenChangeOnlyTheSeal :=
  ⟨rowN (o := .calseal) rfl rfl, rowN (o := .calopen) rfl rfl, fun _ => ⟨rfl, rfl⟩⟩

end Sys2Proof.Machine
end

section
/-! PROOFS. The unpack and extract commands of 42_unpack.md: the rows of their formats, the fields of a word as numbers,
and what each command does as one equation per case. -/

namespace Sys2Proof.Machine

/-! ## The rows of formats R and U (30_encoding.md R42, R46, R47) -/

section
variable {o : Op}

theorem rowR {f : Reg → Reg → Instr} (hformat : o.format = .r)
    (hencode : ∀ rd rs, encode (f rd rs) = packWord o rd rs 0) : RowR o.code f := by
  refine ⟨hencode, fun w s hop => executeWord_of_row hop ?_ ?_ s⟩ <;> rw [hformat]
  · exact mask_r w o hop
  · exact fun h => (hencode ..).trans (packWord_of_mask_r hop h)

theorem rowU {f : Reg → Instr} (hformat : o.format = .u)
    (hencode : ∀ rs, encode (f rs) = packWord o 0 rs 0) : RowU o.code f := by
  refine ⟨hencode, fun w s hop => executeWord_of_row hop ?_ ?_ s⟩ <;> rw [hformat]
  · exact mask_u w o hop
  · exact fun h => (hencode ..).trans (packWord_of_mask_u hop h)

end

/-! ## Fields as numbers (00_scope.md R6) -/

/-- A field's number is the word's, shifted down to the field and cut to its width. -/
theorem toNat_field {w : Nat} (v : BitVec w) (k n : Nat) : (v.extractLsb' k n).toNat = v.toNat / 2 ^ k % 2 ^ n := by
  rw [BitVec.extractLsb'_toNat, Nat.shiftRight_eq_div_pow]

/-- Writing a field's number to a register zero-extends the field. -/
theorem wordOf_toNat {n : Nat} (v : BitVec n) : wordOf (v.toNat : Int) = v.setWidth 32 := by
  rw [wordOf, BitVec.ofInt_natCast, BitVec.ofNat_toNat]

/-- A coefficient keeps a number that its width can hold. -/
theorem toNat_setWidth_wordOf {k n : Nat} (hk : k ≤ 32) (hn : n < 2 ^ k) :
    ((wordOf (n : Int)).setWidth k).toNat = n := by
  rw [wordOf, BitVec.ofInt_natCast, BitVec.setWidth_ofNat_of_le hk, BitVec.toNat_ofNat, Nat.mod_eq_of_lt hn]

/-- Bits 23:4 from the bytes that hold them, the low nibble of byte 0 dropped. -/
theorem toNat_bits_23_4 (v : Word) :
    (v.extractLsb' 4 20).toNat = (v.extractLsb' 16 8).toNat * 2 ^ 12 + (v.extractLsb' 8 8).toNat * 2 ^ 4 +
      (v.extractLsb' 0 8).toNat / 2 ^ 4 := by
  simp only [toNat_field]; omega

/-- Bits 15:0 from the bytes that hold them. -/
theorem toNat_bits_15_0 (v : Word) :
    (v.extractLsb' 0 16).toNat = (v.extractLsb' 8 8).toNat * 2 ^ 8 + (v.extractLsb' 0 8).toNat := by
  simp only [toNat_field]; omega

/-! ## The functions of 42_unpack.md on the fields of a word -/

theorem unpack20_bytes (v : Word) :
    unpack20 (byteOf v 2) (byteOf v 1) (byteOf v 0) = ((v.extractLsb' 4 20).toNat : Int) := by
  rw [toNat_bits_23_4]; push_cast; rfl

theorem unpack16_bytes (v : Word) : unpack16 (byteOf v 1) (byteOf v 0) = ((v.extractLsb' 0 16).toNat : Int) := by
  rw [toNat_bits_15_0]; push_cast; rfl

/-- H4's packed bytes: the first whole, above the low nibble of the second (R65). -/
def packedH4 (v : Word) : Nat := (v.extractLsb' 24 8).toNat * 2 ^ 4 + (v.extractLsb' 16 8).toNat % 2 ^ 4

/-- H5's packed bytes: the second whole, above the high nibble of the first (R65). -/
def packedH5 (v : Word) : Nat := (v.extractLsb' 8 8).toNat / 2 ^ 4 + (v.extractLsb' 0 8).toNat * 2 ^ 4

theorem packH4_bytes (v : Word) : packH4 (byteOf v 3) (byteOf v 2) = (packedH4 v : Int) := by
  unfold packedH4; push_cast; rfl

theorem packH5_bytes (v : Word) : packH5 (byteOf v 1) (byteOf v 0) = (packedH5 v : Int) := by
  unfold packedH5; push_cast; rfl

theorem packedH4_lt (v : Word) : packedH4 v < 2 ^ 12 := by
  have he4 := (v.extractLsb' 24 8).isLt
  unfold packedH4; omega

theorem packedH5_lt (v : Word) : packedH5 v < 2 ^ 12 := by
  have he5b := (v.extractLsb' 8 8).isLt
  have he6 := (v.extractLsb' 0 8).isLt
  unfold packedH5; omega

/-- The shift takes the field of bits 15:2, whose sign bit is the word's (R66). -/
theorem field14_eq_toInt (r : BitVec 16) : field14 r = (r.extractLsb' 2 14).toInt := by
  have hr := r.isLt
  have hfield := toNat_field r 2 14
  simp only [field14, asr, pow2, BitVec.toInt_eq_toNat_cond]
  split <;> split <;> omega

theorem field_halfOf (v : Word) {k n : Nat} (h : k + n ≤ 16) : (halfOf v).extractLsb' k n = v.extractLsb' k n :=
  extract_cField v k n h

theorem toNat_exponent_halfOf (v : Word) : (exponent (halfOf v)).toNat = v.toNat % 2 ^ 16 / 2 ^ 12 := by
  rw [exponent, field_halfOf v (by omega), toNat_field]; omega

theorem toNat_mantissa_halfOf (v : Word) : (mantissa (halfOf v)).toNat = v.toNat % 2 ^ 12 := by
  rw [mantissa, field_halfOf v (by omega), toNat_field]; omega

/-! ## The commands (42_unpack.md R63 to R68) -/

theorem exec_unpk20 (rd rs : Reg) (s : State) :
    exec (.unpk20 rd rs) s = .next (s.setReg rd (((s.reg rs).extractLsb' 4 20).setWidth 32)) := by
  change execUnpk20 rd rs s = _
  rw [execUnpk20, unpack20_bytes, wordOf_toNat]

theorem exec_unpk16 (rd rs : Reg) (s : State) :
    exec (.unpk16 rd rs) s = .next (s.setReg rd (((s.reg rs).extractLsb' 0 16).setWidth 32)) := by
  change execUnpk16 rd rs s = _
  rw [execUnpk16, unpack16_bytes, wordOf_toNat]

theorem exec_unpkh45_unsealed {s : State} (hcal : s.status.cal = false) (rs : Reg) :
    exec (.unpkh45 rs) s = .next ((s.writeCal .h4 (wordOf (packedH4 (s.reg rs)))).writeCal .h5
      (wordOf (packedH5 (s.reg rs)))) := by
  change execUnpkh45 rs s = _
  rw [execUnpkh45, packH4_bytes, packH5_bytes]
  exact if_neg (by simp [hcal])

theorem exec_unpkh45_sealed {s : State} (hcal : s.status.cal = true) (rs : Reg) :
    exec (.unpkh45 rs) s = .next (s.capture .calLocked (encode (.unpkh45 rs))) :=
  if_pos hcal

theorem exec_fld14 (rd rs : Reg) (s : State) :
    exec (.fld14 rd rs) s = .next (s.setReg rd (wordOf (field14 (halfOf (s.reg rs))))) := rfl

theorem exec_lexp (rd rs : Reg) (s : State) :
    exec (.lexp rd rs) s = .next (s.setReg rd ((exponent (halfOf (s.reg rs))).setWidth 32)) := rfl

theorem exec_lmant (rd rs : Reg) (s : State) :
    exec (.lmant rd rs) s = .next (s.setReg rd ((mantissa (halfOf (s.reg rs))).setWidth 32)) := rfl

/-- Settles O21: the value written is bits 23:4 zero-extended, which are the three bytes without the last nibble. -/
theorem unpk20AssemblesThreeBytes : Obligations.Unpk20AssemblesThreeBytes := by
  refine ⟨rowR (o := .unpk20) rfl fun _ _ => rfl, fun rd rs s => ⟨_, exec_unpk20 rd rs s, onlyReg_setReg .., ?_⟩⟩
  rw [reg_setReg_same, BitVec.toNat_setWidth_of_le (by decide), toNat_bits_23_4]
  exact ⟨(zeros_append_eq_setWidth ..).symm, rfl⟩

/-- Settles O22: the value written is bits 15:0 zero-extended, which are the two bytes. -/
theorem unpk16AssemblesTwoBytes : Obligations.Unpk16AssemblesTwoBytes := by
  refine ⟨rowR (o := .unpk16) rfl fun _ _ => rfl, fun rd rs s => ⟨_, exec_unpk16 rd rs s, onlyReg_setReg .., ?_⟩⟩
  rw [reg_setReg_same, BitVec.toNat_setWidth_of_le (by decide), toNat_bits_15_0]
  exact ⟨(zeros_append_eq_setWidth ..).symm, rfl⟩

/-- Settles O23: by the seal; while it is open both packed numbers fit the coefficients' 12 bits. -/
theorem unpkh45UnpacksH4AndH5 : Obligations.Unpkh45UnpacksH4AndH5 :=
  ⟨rowU (o := .unpkh45) rfl fun _ => rfl,
    fun rs s hcal => ⟨_, exec_unpkh45_unsealed hcal rs,
      toNat_setWidth_wordOf (by decide) (packedH4_lt (s.reg rs)),
      toNat_setWidth_wordOf (by decide) (packedH5_lt (s.reg rs)), rfl⟩,
    fun rs _ hcal => exec_unpkh45_sealed hcal rs⟩

/-- Settles O24: the field fits a register, so it is read back as the shift and as bits 15:2. -/
theorem fld14ExtractsTheSignedField : Obligations.Fld14ExtractsTheSignedField := by
  refine ⟨rowR (o := .fld14) rfl fun _ _ => rfl, fun rd rs s => ⟨_, exec_fld14 rd rs s, onlyReg_setReg .., ?_⟩⟩
  obtain ⟨hlo, hhi⟩ := field14_range (halfOf (s.reg rs))
  rw [reg_setReg_same, toInt_wordOf_of_range _ (by omega) (by omega)]
  exact ⟨rfl, (field14_eq_toInt _).trans (congrArg BitVec.toInt (field_halfOf _ (by decide)))⟩

/-- Settles O25: zero extension keeps the fields' numbers. -/
theorem lexpAndLmantExtractTheirFields : Obligations.LexpAndLmantExtractTheirFields := by
  refine ⟨rowR (o := .lexp) rfl fun _ _ => rfl, rowR (o := .lmant) rfl fun _ _ => rfl,
    fun rd rs s => ⟨_, exec_lexp rd rs s, onlyReg_setReg .., ?_⟩,
    fun rd rs s => ⟨_, exec_lmant rd rs s, onlyReg_setReg .., ?_⟩⟩
  · rw [reg_setReg_same, BitVec.toNat_setWidth_of_le (by decide), toNat_exponent_halfOf]
  · rw [reg_setReg_same, BitVec.toNat_setWidth_of_le (by decide), toNat_mantissa_halfOf]

end Sys2Proof.Machine
end

section
/-! PROOFS. The linear scale commands of 43_scale.md: the row of format P, when the 32-bit primitives in their chains do
not wrap, each chain as one integer formula, and what each command does. -/

namespace Sys2Proof.Machine

/-! ## The row of format P (30_encoding.md R42, R46, R47) -/

theorem rowP {o : Op} {f : Reg → Reg → Instr} (hformat : o.format = .p)
    (hencode : ∀ rs1 rs2, encode (f rs1 rs2) = packWord o 0 rs1 (rs2 ++ 0#12)) : RowP o.code f := by
  refine ⟨fun rs1 rs2 => (hencode rs1 rs2).trans (packWord_append o 0 rs1 rs2 0#12 rfl),
    fun w s hop => executeWord_of_row hop ?_ ?_ s⟩ <;> rw [hformat]
  · exact mask_p w o hop
  · rw [← extract_cField w 12 4 (by omega)]
    exact fun h => (hencode ..).trans (packWord_of_mask_p hop h)

/-! ## When the primitives do not wrap (00_scope.md R7, R8) -/

/-- A sum may take its left operand unwrapped, as `addS_wrap` says of the right one. -/
theorem addS_wrapS_left (n : Nat) (a b : Int) : addS n (wrapS n a) b = wrapS n (a + b) :=
  Int.bmod_add_bmod

/-- A sum is a signed 32-bit number, so a register holds it. -/
theorem toInt_wordOf_addS (a b : Int) : (wordOf (addS 32 a b)).toInt = addS 32 a b := by
  obtain ⟨hlo, hhi⟩ := wrapS_32_range (a + b)
  exact toInt_wordOf_of_range _ hlo hhi

section
variable {a : Int} (hlo : -2147483648 ≤ a) (hhi : a < 2147483648)
include hlo hhi

/-- A quotient truncated by a positive divisor lies between the dividend and 0, so it does not leave a signed range that
holds the dividend. -/
theorem tdivS_of_range {k : Int} (hk : 0 < k) : tdivS 32 a k = a.tdiv k := by
  obtain ⟨hpos, hneg⟩ := tdiv_bounds a k hk
  have habs := Int.natAbs_tdiv_le_natAbs a k
  exact wrapS_32_of_range _ (by omega) (by omega)

/-- The last two operators of both Fahrenheit chains (43_scale.md R72, R74). -/
theorem addS_tdivS_10_320 : addS 32 (tdivS 32 a 10) 320 = a.tdiv 10 + 320 := by
  obtain ⟨hpos, hneg⟩ := tdiv_bounds a 10 (by decide)
  rw [tdivS_of_range hlo hhi (by decide)]
  exact wrapS_32_of_range _ (by omega) (by omega)

end

/-! ## The chains as integer formulas (43_scale.md R69 to R75) -/

theorem t32t10_eq (v : Int) : t32t10 v = wrapS 32 (10 * v + 16) / 32 := by
  rw [t32t10, mulS, addS_wrapS_left, mul_comm v 10]
  rfl

theorem toInt_wordOf_t32t10 (v : Int) : (wordOf (t32t10 v)).toInt = t32t10 v := by
  have hrange := wrapS_32_range (10 * v + 16)
  have heq := t32t10_eq v
  exact toInt_wordOf_of_range _ (by omega) (by omega)

/-- Wrapping moves a number by a multiple of `2^32`, which the division by 32 keeps apart, so the rescale is exact where
nothing wraps and only there. -/
theorem wrapS_32_ediv_32_eq_iff (z : Int) : wrapS 32 z / 32 = z / 32 ↔ -2147483648 ≤ z ∧ z < 2147483648 := by
  constructor
  · intro h
    have hrange := wrapS_32_range z
    have hmod : wrapS 32 z % 4294967296 = z % 4294967296 := Int.bmod_emod
    omega
  · rintro ⟨hlo, hhi⟩
    rw [wrapS_32_of_range z hlo hhi]

/-- The rescale's exact form on the thermopile's inputs is a floor of an increasing function. -/
theorem t32t10_mono_of_field {v v' : Int} (hlo : -8192 ≤ v) (hle : v ≤ v') (hhi : v' ≤ 8191) :
    t32t10 v ≤ t32t10 v' := by
  rw [t32t10_of_field v hlo (by omega), t32t10_of_field v' (by omega) hhi]
  omega

/-- The decode of the word in a register, from the register's bits 15:2. -/
theorem tpdec_halfOf (v : Word) : tpdec (halfOf v) = (10 * (v.extractLsb' 2 14).toInt + 16) / 32 := by
  obtain ⟨hlo, hhi⟩ := field14_range (halfOf v)
  rw [tpdec, t32t10_of_field _ hlo hhi, field14_eq_toInt, field_halfOf v (by decide)]

theorem toInt_wordOf_tpdec_halfOf (v : Word) :
    (wordOf (tpdec (halfOf v))).toInt = (10 * (v.extractLsb' 2 14).toInt + 16) / 32 :=
  (toInt_wordOf_t32t10 _).trans (tpdec_halfOf v)

theorem c10f10_eq (c : Int) : c10f10 c = (wrapS 32 (18 * c + 5)).tdiv 10 + 320 := by
  obtain ⟨hlo, hhi⟩ := wrapS_32_range (18 * c + 5)
  rw [c10f10, mulS, addS_wrapS_left, mul_comm c 18, addS_tdivS_10_320 hlo hhi]

theorem toInt_wordOf_c10f10 (c : Int) : (wordOf (c10f10 c)).toInt = (wrapS 32 (18 * c + 5)).tdiv 10 + 320 :=
  (toInt_wordOf_addS ..).trans (c10f10_eq c)

/-- The lux decode of the word in a register, from the register's bits 11:0 and 15:12. -/
theorem toNat_wordOf_lux_halfOf (v : Word) :
    (wordOf (lux (halfOf v))).toNat =
      ((v.extractLsb' 0 12).toNat * 2 ^ (v.extractLsb' 12 4).toNat + 50) / 100 := by
  obtain ⟨heq, hlo, hhi⟩ := lux_eq (halfOf v)
  rw [← Int.natCast_inj, toNat_wordOf_of_range _ hlo (by omega), heq, mantissa, exponent, field_halfOf v (by decide),
    field_halfOf v (by decide)]

theorem c100f10_eq (c : Int) : c100f10 c = ((wrapS 32 (9 * c)).tdiv 5 + 5).tdiv 10 + 320 := by
  obtain ⟨hlo, hhi⟩ := wrapS_32_range (9 * c)
  obtain ⟨hpos, hneg⟩ := tdiv_bounds (wrapS 32 (9 * c)) 5 (by decide)
  have hsum : addS 32 (tdivS 32 (wrapS 32 (9 * c)) 5) 5 = (wrapS 32 (9 * c)).tdiv 5 + 5 := by
    rw [tdivS_of_range hlo hhi (by decide)]
    exact wrapS_32_of_range _ (by omega) (by omega)
  rw [c100f10, mulS, mul_comm c 9, hsum, addS_tdivS_10_320 (by omega) (by omega)]

theorem toInt_wordOf_c100f10 (c : Int) :
    (wordOf (c100f10 c)).toInt = ((wrapS 32 (9 * c)).tdiv 5 + 5).tdiv 10 + 320 :=
  (toInt_wordOf_addS ..).trans (c100f10_eq c)

theorem toNat_wordOf_painhg (p : Nat) : (wordOf (painhg p)).toNat = p * 100 % 2 ^ 32 / 3386 := by
  have heq : painhg p = ((p * 100 % 2 ^ 32 / 3386 : Nat) : Int) := by push_cast; rfl
  rw [← Int.natCast_inj, heq]
  exact toNat_wordOf_of_range _ (by omega) (by omega)

/-! ## The commands (43_scale.md R69 to R77) -/

theorem exec_tpdec (rd rs : Reg) (s : State) :
    exec (.tpdec rd rs) s = .next (s.setReg rd (wordOf (tpdec (halfOf (s.reg rs))))) := rfl

theorem exec_t32t10 (rd rs : Reg) (s : State) :
    exec (.t32t10 rd rs) s = .next (s.setReg rd (wordOf (t32t10 (s.reg rs).toInt))) := rfl

theorem exec_c10f10 (rd rs : Reg) (s : State) :
    exec (.c10f10 rd rs) s = .next (s.setReg rd (wordOf (c10f10 (s.reg rs).toInt))) := rfl

theorem exec_luxdec (rd rs : Reg) (s : State) :
    exec (.luxdec rd rs) s = .next (s.setReg rd (wordOf (lux (halfOf (s.reg rs))))) := rfl

theorem exec_c100f10 (rd rs : Reg) (s : State) :
    exec (.c100f10 rd rs) s = .next (s.setReg rd (wordOf (c100f10 (s.reg rs).toInt))) := rfl

theorem exec_painhg (rd rs : Reg) (s : State) :
    exec (.painhg rd rs) s = .next (s.setReg rd (wordOf (painhg (s.reg rs).toNat))) := rfl

theorem exec_tpsample (rs1 rs2 : Reg) (s : State) :
    exec (.tpsample rs1 rs2) s = .next { s with
      rdTpint := wordOf (tpdec (halfOf (s.reg rs1)))
      rdTpext := wordOf (tpdec (halfOf (s.reg rs2)))
      status := { s.status with tpv := true } } := rfl

theorem exec_luxsample (rs : Reg) (s : State) :
    exec (.luxsample rs) s = .next { s with
      rdLux := wordOf (lux (halfOf (s.reg rs)))
      status := { s.status with luxv := true } } := rfl

/-- Settles O26: the field's range keeps the decode from wrapping and gives its bounds. -/
theorem tpdecDecodesToTenths : Obligations.TpdecDecodesToTenths := by
  refine ⟨rowR (o := .tpdec) rfl fun _ _ => rfl, fun rd rs s => ⟨_, exec_tpdec rd rs s, onlyReg_setReg .., ?_⟩⟩
  rw [reg_setReg_same]
  exact ⟨toInt_wordOf_tpdec_halfOf _, toInt_wordOf_tpdec_range _⟩

/-- Settles O27: the range is where `10v + 16` is a signed 32-bit number. -/
theorem t32t10RescalesWithRounding : Obligations.T32t10RescalesWithRounding := by
  refine ⟨rowR (o := .t32t10) rfl fun _ _ => rfl, fun rd rs s => ⟨_, exec_t32t10 rd rs s, onlyReg_setReg .., ?_⟩⟩
  rw [reg_setReg_same, toInt_wordOf_t32t10, t32t10_eq, wrapS_32_ediv_32_eq_iff]
  exact ⟨rfl, by omega⟩

/-- Settles O28: only `18c + 5` can wrap, and in the range it does not. -/
theorem c10f10ConvertsTenths : Obligations.C10f10ConvertsTenths := by
  refine ⟨rowR (o := .c10f10) rfl fun _ _ => rfl, fun rd rs s => ⟨_, exec_c10f10 rd rs s, onlyReg_setReg .., ?_⟩⟩
  rw [reg_setReg_same, toInt_wordOf_c10f10]
  exact ⟨rfl, fun hlo hhi => by rw [wrapS_32_of_range _ (by omega) (by omega)]⟩

/-- Settles O29: no exponent makes the chain wrap. -/
theorem luxdecDecodesToLux : Obligations.LuxdecDecodesToLux := by
  refine ⟨rowR (o := .luxdec) rfl fun _ _ => rfl, fun rd rs s => ⟨_, exec_luxdec rd rs s, onlyReg_setReg .., ?_⟩⟩
  rw [reg_setReg_same]
  exact ⟨toNat_wordOf_lux_halfOf _, toNat_wordOf_lux_le _⟩

/-- Settles O30: only `9c` can wrap, and in the range it does not. -/
theorem c100f10ConvertsHundredths : Obligations.C100f10ConvertsHundredths := by
  refine ⟨rowR (o := .c100f10) rfl fun _ _ => rfl, fun rd rs s => ⟨_, exec_c100f10 rd rs s, onlyReg_setReg .., ?_⟩⟩
  rw [reg_setReg_same, toInt_wordOf_c100f10]
  exact ⟨rfl, fun hlo hhi => by rw [wrapS_32_of_range _ (by omega) (by omega)]⟩

/-- Settles O31: only `100p` can wrap, and in the range it does not. -/
theorem painhgConvertsPascals : Obligations.PainhgConvertsPascals := by
  refine ⟨rowR (o := .painhg) rfl fun _ _ => rfl, fun rd rs s => ⟨_, exec_painhg rd rs s, onlyReg_setReg .., ?_⟩⟩
  rw [reg_setReg_same, toNat_wordOf_painhg]
  exact ⟨rfl, fun hle => by rw [Nat.mod_eq_of_lt (by omega)]⟩

/-- Settles O32: each channel is TPDEC's decode of its own register. -/
theorem tpsampleStoresBothChannels : Obligations.TpsampleStoresBothChannels :=
  ⟨rowP (o := .tpsample) rfl fun _ _ => rfl, fun rs1 rs2 s =>
    ⟨_, exec_tpsample rs1 rs2 s, toInt_wordOf_tpdec_halfOf _, toInt_wordOf_tpdec_halfOf _, rfl⟩⟩

/-- Settles O33: the reading is LUXDEC's decode of the register. -/
theorem luxsampleStoresTheReading : Obligations.LuxsampleStoresTheReading :=
  ⟨rowU (o := .luxsample) rfl fun _ => rfl, fun rs s =>
    ⟨_, exec_luxsample rs s, toNat_wordOf_lux_halfOf _, rfl⟩⟩

/-- Settles O34: the decode of a word is the rescale of its field, which lies where the rescale is monotonic. -/
theorem tpdecIsMonotonic : Obligations.TpdecIsMonotonic := by
  refine ⟨fun _ _ => t32t10_mono_of_field, fun r r' hle => ?_⟩
  obtain ⟨hlo, -⟩ := field14_range r
  obtain ⟨-, hhi⟩ := field14_range r'
  rw [← field14_eq_toInt, ← field14_eq_toInt] at hle
  exact t32t10_mono_of_field hlo hle hhi

end Sys2Proof.Machine
end

section
/-! PROOFS. The compensation commands of 44_compensation.md: the humidity clamp, the zero guard and the zero trim as
equations of the stages, the burst buffer's raw values as bits, and what each command does by the seal and TFV. -/

namespace Sys2Proof.Machine

/-! ## The humidity clamp by range (R79, R81, R84) -/

theorem humClamp_of_gt {v : Int} (h : 419430400 < v) :
    humClamp v = { c := 419430400, rh10 := 1003, lo := false, hi := true } := by
  have hc : min (max v 0) 419430400 = 419430400 := by omega
  have hlo : ¬v < 0 := by omega
  simp only [humClamp, hc, hlo, gt_iff_lt, h, decide_true, decide_false]
  rfl

theorem humClamp_of_neg {v : Int} (h : v < 0) : humClamp v = { c := 0, rh10 := 0, lo := true, hi := false } := by
  have hc : min (max v 0) 419430400 = 0 := by omega
  have hhi : ¬v > 419430400 := by omega
  simp only [humClamp, hc, h, hhi, decide_true, decide_false]
  rfl

theorem humClamp_of_mem {v : Int} (hlo : 0 ≤ v) (hhi : v ≤ 419430400) :
    humClamp v = { c := v, rh10 := v / 4096 / 102, lo := false, hi := false } := by
  have hc : min (max v 0) 419430400 = v := by omega
  simp only [humClamp, hc, not_lt.2 hlo, gt_iff_lt, not_lt.2 hhi, decide_false]
  rfl

/-- Settles O39: by the range of the accumulator. -/
theorem humidityClampProperty : Obligations.HumidityClampProperty := by
  intro cv adcH tf
  rw [compH]
  refine ⟨fun h => ?_, fun h => ?_, fun hlo hhi => ?_, humClamp_range _⟩
  · rw [humClamp_of_gt h]; exact ⟨rfl, rfl, rfl, rfl⟩
  · rw [humClamp_of_neg h]; exact ⟨rfl, rfl, rfl, rfl⟩
  · rw [humClamp_of_mem hlo hhi]; exact ⟨rfl, rfl, rfl, rfl⟩

/-! ## The zero guard (R82, R83) -/

theorem compP_of_accum_eq_zero {cv : Coef → Int} {tf : Int} (h : presAccum cv tf = 0) (adcP : Int) :
    compP cv adcP tf = { pa := 0, zero := true } :=
  if_pos h

theorem compP_of_accum_ne_zero {cv : Coef → Int} {tf : Int} (h : presAccum cv tf ≠ 0) (adcP : Int) :
    compP cv adcP tf =
      { pa := lsr (wrapU 32 (presCorrect cv (presQuotient cv adcP tf))) 8, zero := false } :=
  if_neg h

theorem compP_zero_iff (cv : Coef → Int) (adcP tf : Int) : (compP cv adcP tf).zero = true ↔ presAccum cv tf = 0 := by
  by_cases h : presAccum cv tf = 0
  · simp [compP_of_accum_eq_zero h, h]
  · simp [compP_of_accum_ne_zero h, h]

theorem mulS_zero_right (n : Nat) (a : Int) : mulS n a 0 = 0 := by
  rw [mulS, mul_zero, wrapS, Int.zero_bmod]

/-- P1 is the last factor of the accumulator. -/
theorem presAccum_of_p1_eq_zero {cv : Coef → Int} (h : cv .p1 = 0) (tf : Int) : presAccum cv tf = 0 := by
  simp only [presAccum, h, mulS_zero_right]
  rfl

/-- Settles O40: by whether the accumulator is zero. -/
theorem pressureZeroGuard : Obligations.PressureZeroGuard := by
  refine ⟨fun cv adcP tf => ⟨compP_zero_iff cv adcP tf, fun hzero => ?_, fun hne => ?_, fun hp1 => ?_⟩, by decide⟩
  · rw [compP_of_accum_eq_zero ((compP_zero_iff cv adcP tf).1 hzero)]
  · rw [compP_of_accum_ne_zero hne]
  · exact (compP_zero_iff cv adcP tf).2 (presAccum_of_p1_eq_zero hp1 tf)

/-! ## The zero trim (R85, 93_implementation_defined.md U14) -/

/-- T2 and T3 scale the two terms of `t_fine`; without them only the rounding constant of the temperature is left. -/
theorem compT_of_t2_t3_eq_zero {cv : Coef → Int} (h2 : cv .t2 = 0) (h3 : cv .t3 = 0) (adcT : Int) :
    compT cv adcT = { tf := 0, t100 := 0 } := by
  simp only [compT, h2, h3, mulS_zero_right]
  rfl

/-- H2 and H1 scale the accumulator's two terms; without them only the rounding constant of `w3` is left, and its shift
drops it. -/
theorem humAccum_of_h1_h2_eq_zero {cv : Coef → Int} (h1 : cv .h1 = 0) (h2 : cv .h2 = 0) (adcH tf : Int) :
    humAccum cv adcH tf = 0 := by
  have hw3 : asr (addS 32 0 8192) 14 = 0 := rfl
  simp only [humAccum, h1, h2, mulS_zero_right, hw3]
  rfl

/-- Settles O44: the coefficients that scale each stage's terms are zero. -/
theorem zeroTrimGivesZeroReadings : Obligations.ZeroTrimGivesZeroReadings := by
  intro cv hzero adcT adcH adcP tf
  refine ⟨compT_of_t2_t3_eq_zero (hzero _) (hzero _) adcT, ?_,
    compP_of_accum_eq_zero (presAccum_of_p1_eq_zero (hzero _) tf) adcP⟩
  rw [compH, humAccum_of_h1_h2_eq_zero (hzero _) (hzero _)]
  exact humClamp_of_mem (by decide) (by decide)

/-! ## NOCAL and NOTFINE (R85 to R88, 60_exceptions.md R89, R91) -/

/-- Every compensation command needs the seal. -/
theorem exec_nocal {i : Instr} (hi : Raises .nocal i) {s : State} (hcal : s.status.cal = false) :
    exec i s = .next (s.capture .nocal (encode i)) := by
  have hopen : ¬s.status.cal = true := by simp [hcal]
  obtain ⟨rd, rs, rfl | rfl | rfl⟩ | rfl := hi <;> exact if_neg hopen

/-- The two commands that read TFINE need it valid. -/
theorem exec_notfine {i : Instr} (hi : Raises .notfine i) {s : State} (hcal : s.status.cal = true)
    (htfv : s.status.tfv = false) : exec i s = .next (s.capture .notfine (encode i)) := by
  have hstale : ¬s.status.tfv = true := by simp [htfv]
  obtain ⟨rd, rs, rfl | rfl⟩ := hi <;> exact (if_pos hcal).trans (if_neg hstale)

/-! ## The stage commands (R85 to R87) -/

theorem storeTemp_frame (s : State) (rd : Reg) (r : TempResult) : s.storeTemp rd r = { s with
    x := (s.storeTemp rd r).x
    tfine := BitVec.ofInt 32 r.tf
    status := { s.status with tfv := true } } := rfl

theorem storeHum_frame (s : State) (rd : Reg) (r : HumResult) : s.storeHum rd r = { s with
    x := (s.storeHum rd r).x
    status := { s.status with hclo := r.lo, hchi := r.hi } } := rfl

theorem storePres_frame (s : State) (rd : Reg) (r : PresResult) : s.storePres rd r = { s with
    x := (s.storePres rd r).x
    status := { s.status with pzero := r.zero } } := rfl

/-- The pressure in a register is below `2^24`. -/
theorem toNat_wordOf_compP_pa_le (cv : Coef → Int) (adcP tf : Int) :
    (wordOf (compP cv adcP tf).pa).toNat ≤ 2 ^ 24 - 1 := by
  obtain ⟨hlo, hhi⟩ := compP_range cv adcP tf
  have hword := toNat_wordOf_of_range _ hlo (by omega)
  omega

/-- Settles O35: by the seal. -/
theorem comptRunsTheTemperatureStage : Obligations.ComptRunsTheTemperatureStage :=
  ⟨rowR (o := .compt) rfl fun _ _ => rfl,
    fun rd rs s hcal => ⟨_, exec_compt_sealed rd rs s hcal, storeTemp_reg_same ..,
      fun _ hne => storeTemp_reg_ne _ _ _ _ hne, storeTemp_frame ..⟩,
    fun rd rs _ hcal => exec_nocal (.inl ⟨rd, rs, .inl rfl⟩) hcal⟩

/-- Settles O36: by the seal, and then by TFV. -/
theorem comphRunsTheHumidityStage : Obligations.ComphRunsTheHumidityStage :=
  ⟨rowR (o := .comph) rfl fun _ _ => rfl,
    fun rd rs s hcal htfv => ⟨_, exec_comph_ready rd rs s hcal htfv, storeHum_reg_same ..,
      fun _ hne => storeHum_reg_ne _ _ _ _ hne, storeHum_frame ..⟩,
    fun rd rs _ hcal => exec_nocal (.inl ⟨rd, rs, .inr (.inl rfl)⟩) hcal,
    fun rd rs _ hcal htfv => exec_notfine ⟨rd, rs, .inl rfl⟩ hcal htfv⟩

/-- Settles O37: by the seal, and then by TFV; the stage's range bounds the register. -/
theorem comppRunsThePressureStage : Obligations.ComppRunsThePressureStage := by
  refine ⟨rowR (o := .compp) rfl fun _ _ => rfl,
    fun rd rs s hcal htfv => ⟨_, exec_compp_ready rd rs s hcal htfv, storePres_reg_same .., ?_,
      fun _ hne => storePres_reg_ne _ _ _ _ hne, storePres_frame ..⟩,
    fun rd rs _ hcal => exec_nocal (.inl ⟨rd, rs, .inr (.inr rfl)⟩) hcal,
    fun rd rs _ hcal htfv => exec_notfine ⟨rd, rs, .inr rfl⟩ hcal htfv⟩
  rw [storePres_reg_same]
  exact toNat_wordOf_compP_pa_le ..

/-! ## The burst buffer's raw values (R88, 10_state.md R14) -/

theorem toNat_append_eq_add {m n : Nat} (v : BitVec m) (v' : BitVec n) :
    (v ++ v').toNat = v.toNat * 2 ^ n + v'.toNat := by
  rw [BitVec.toNat_append, ← Nat.shiftLeft_add_eq_or_of_lt v'.isLt, Nat.shiftLeft_eq]

/-- A 20-bit raw value is two bytes and the third's high nibble, one after another. -/
theorem unpack20_eq_append (b0 b1 b2 : Byte) :
    unpack20 (b0.toNat : Int) (b1.toNat : Int) (b2.toNat : Int) = ((b0 ++ b1 ++ b2.extractLsb' 4 4).toNat : Int) := by
  have h2 := b2.isLt
  simp only [unpack20, pow2, toNat_append_eq_add, toNat_field]
  omega

theorem unpack16_eq_append (b0 b1 : Byte) : unpack16 (b0.toNat : Int) (b1.toNat : Int) = ((b0 ++ b1).toNat : Int) := by
  simp only [unpack16, pow2, toNat_append_eq_add]
  omega

theorem burstP_eq_append (s : State) :
    s.burstP = ((s.rawByte 0 ++ s.rawByte 1 ++ (s.rawByte 2).extractLsb' 4 4).toNat : Int) :=
  unpack20_eq_append ..

theorem burstT_eq_append (s : State) :
    s.burstT = ((s.rawByte 3 ++ s.rawByte 4 ++ (s.rawByte 5).extractLsb' 4 4).toNat : Int) :=
  unpack20_eq_append ..

theorem burstH_eq_append (s : State) : s.burstH = ((s.rawByte 6 ++ s.rawByte 7).toNat : Int) :=
  unpack16_eq_append ..

/-- A word that holds the number of a shorter field has a clear sign bit, so it is read as that number (R7). -/
theorem toInt_of_toNat_eq {k n : Nat} {w : BitVec k} {v : BitVec n} (hn : n < k) (h : w.toNat = v.toNat) :
    w.toInt = (v.toNat : Int) := by
  have hlt : 2 ^ n * 2 ≤ 2 ^ k := Nat.pow_succ .. ▸ Nat.pow_le_pow_right (by decide) hn
  have hv := v.isLt
  rw [BitVec.toInt_eq_toNat_of_lt (by omega), h]

theorem regS_of_burst20 {u : State} {rs : Reg} {b0 b1 : Byte} {n : BitVec 4} (h : u.reg rs = 0#12 ++ b0 ++ b1 ++ n) :
    u.regS rs = ((b0 ++ b1 ++ n).toNat : Int) :=
  toInt_of_toNat_eq (by decide) <| by
    rw [h]; simp only [toNat_append_eq_add, BitVec.toNat_zero, Nat.zero_mul, Nat.zero_add]

theorem regS_of_burst16 {u : State} {rs : Reg} {b0 b1 : Byte} (h : u.reg rs = 0#16 ++ b0 ++ b1) :
    u.regS rs = ((b0 ++ b1).toNat : Int) :=
  toInt_of_toNat_eq (by decide) <| by
    rw [h]; simp only [toNat_append_eq_add, BitVec.toNat_zero, Nat.zero_mul, Nat.zero_add]

/-! ## ENVSAMPLE (R88) -/

theorem storeSample_frame (s : State) (temp : TempResult) (hum : HumResult) (pres : PresResult) :
    s.storeSample temp hum pres = { s with
      tfine := BitVec.ofInt 32 temp.tf
      rdT100 := BitVec.ofInt 32 temp.t100
      rdRh10 := BitVec.ofInt 32 hum.rh10
      rdPa := BitVec.ofInt 32 pres.pa
      status := { s.status with
        tfv := true, envv := true, hclo := hum.lo, hchi := hum.hi, pzero := pres.zero } } := rfl

theorem calv_congr {s s' : State} (h : s.cal = s'.cal) : s.calv = s'.calv :=
  congrArg (Trim.value · Config.h45Signed) h

/-- The state ENVSAMPLE leaves while sealed, its stages' results named. -/
theorem exec_envsample_eq {s t : State} (hcal : s.status.cal = true) (h : exec .envsample s = .next t) :
    ∃ temp hum pres, temp = compT s.calv s.burstT ∧ hum = compH s.calv s.burstH temp.tf ∧
      pres = compP s.calv s.burstP temp.tf ∧ t = s.storeSample temp hum pres := by
  obtain ⟨-, temp, hum, pres, htemp, hhum, hpres, hexec⟩ | ⟨hopen, -⟩ := exec_envsample_cases s
  · exact ⟨temp, hum, pres, htemp, hhum, hpres, Host.Outcome.next.inj (h.symm.trans hexec)⟩
  · cases hcal.symm.trans hopen

/-- Settles O38: by the seal; the raw values unpacked arithmetically are the burst's bits. -/
theorem envsampleRunsAllStages : Obligations.EnvsampleRunsAllStages := by
  refine ⟨rowN (o := .envsample) rfl rfl, fun s hcal => ?_, fun _ hcal => exec_nocal (.inr rfl) hcal⟩
  rw [exec_envsample_sealed s hcal, State.envTemp, burstP_eq_append, burstT_eq_append, burstH_eq_append,
    storeSample_frame]

/-- Settles O45: the register holds the raw value ENVSAMPLE unpacks, and TFINE its `t_fine` with nothing lost, so each
command runs its stage on the same operands. -/
theorem envsampleAgreesWithTheStageCommands : Obligations.EnvsampleAgreesWithTheStageCommands := by
  intro s t rd rs hcal hexec
  obtain ⟨temp, hum, pres, htemp, hhum, hpres, rfl⟩ := exec_envsample_eq hcal hexec
  have htf {u : State} (hu : u.tfine = (s.storeSample temp hum pres).tfine) : u.tfine.toInt = temp.tf := by
    rw [hu, storeSample_tfine, htemp, toInt_wordOf_compT_tf]
  refine ⟨fun u hseal htrim hreg => ?_, fun u hseal htfv htrim hfine hreg => ?_,
    fun u hseal htfv htrim hfine hreg => ?_⟩
  · have hrun := exec_compt_sealed rd rs u hseal
    rw [calv_congr htrim, regS_of_burst20 hreg, ← burstT_eq_append, ← htemp] at hrun
    exact ⟨_, hrun, storeTemp_reg_same .., rfl⟩
  · have hrun := exec_comph_ready rd rs u hseal htfv
    rw [calv_congr htrim, regS_of_burst16 hreg, ← burstH_eq_append, htf hfine, ← hhum] at hrun
    exact ⟨_, hrun, storeHum_reg_same .., rfl, rfl⟩
  · have hrun := exec_compp_ready rd rs u hseal htfv
    rw [calv_congr htrim, regS_of_burst20 hreg, ← burstP_eq_append, htf hfine, ← hpres] at hrun
    exact ⟨_, hrun, storePres_reg_same .., rfl⟩

/-- Settles O46: equal trims and equal used bits give the three stages equal operands. -/
theorem envsampleReadsOnlyTrimAndBurst : Obligations.EnvsampleReadsOnlyTrimAndBurst := by
  intro s s' t t' hcal hcal' htrim hraw hraw2 hraw5 hexec hexec'
  have hcalv : s.calv = s'.calv := calv_congr htrim
  have hT : s.burstT = s'.burstT := by
    rw [burstT_eq_append, burstT_eq_append, hraw 3 (by decide) (by decide), hraw 4 (by decide) (by decide), hraw5]
  have hH : s.burstH = s'.burstH := by
    rw [burstH_eq_append, burstH_eq_append, hraw 6 (by decide) (by decide), hraw 7 (by decide) (by decide)]
  have hP : s.burstP = s'.burstP := by
    rw [burstP_eq_append, burstP_eq_append, hraw 0 (by decide) (by decide), hraw 1 (by decide) (by decide), hraw2]
  obtain ⟨temp, hum, pres, htemp, hhum, hpres, rfl⟩ := exec_envsample_eq hcal hexec
  obtain ⟨temp', hum', pres', htemp', hhum', hpres', rfl⟩ := exec_envsample_eq hcal' hexec'
  obtain rfl : temp = temp' := by rw [htemp, htemp', hcalv, hT]
  obtain rfl : hum = hum' := by rw [hhum, hhum', hcalv, hH]
  obtain rfl : pres = pres' := by rw [hpres, hpres', hcalv, hP]
  exact ⟨rfl, rfl, rfl, rfl, rfl, rfl, rfl⟩

end Sys2Proof.Machine
end

section
/-! PROOFS. The exceptions of 60_exceptions.md: that no step stops, the capture by ERR, what a command does to the
exception record and that it does not read it, and which accesses clear a recorded exception. -/

namespace Sys2Proof.Machine

/-! ## Every step completes (R92, 70_reset_and_hazards.md R110) -/

theorem step_of_pending_cons {s : State} {e : HostEvent} {rest : List HostEvent} (h : s.pending = e :: rest) :
    step s = serve e { s with pending := rest } := by
  simp only [step, serveNext, h]

theorem exists_exec_eq_next (i : Instr) (s : State) : ∃ t, exec i s = .next t :=
  (exec_waits i s).imp fun _ ht => ht.1

theorem exists_serve_eq_next (e : HostEvent) (s : State) : ∃ t, serve e s = .next t :=
  (serve_waits e s).imp fun _ ht => ht.1

/-- Settles O8: an idle step keeps the state, and any other serves an access, which completes as every command does. -/
theorem everyStepAnswersNext : Obligations.EveryStepAnswersNext := by
  refine ⟨fun s => ?_, exists_exec_eq_next⟩
  cases hp : s.pending with
  | nil => exact ⟨s, step_idle hp⟩
  | cons e rest => rw [step_of_pending_cons hp]; exact exists_serve_eq_next e _

/-! ## The capture (R89, R92) -/

/-- Settles O47: the capture by ERR, and the codes of R89. -/
theorem captureRecordsTheFirstException : Obligations.CaptureRecordsTheFirstException :=
  ⟨fun s e info => ⟨capture_first s e info, capture_further s e info⟩, rfl, rfl, rfl, rfl, rfl⟩

/-! ## What a command does to the exception record (R89, R92) -/

/-- Raising is the one effect of a command on the record, and then its only effect. -/
theorem CommandEffect.keeps_record_or_raises {i : Instr} {s t : State} (h : CommandEffect s i t) :
    t.errRecord = s.errRecord ∨ ∃ c, Raises c i ∧ t = s.capture c (encode i) := by
  cases h with
  | raise _ c raises => exact .inr ⟨c, raises, rfl⟩
  | _ => exact .inl rfl

/-- Settles O48: every command completes with one of the effects, and only raising reaches the record. -/
theorem commandExceptionsArePrecise : Obligations.CommandExceptionsArePrecise := by
  intro i s
  obtain ⟨t, ht⟩ := exists_exec_eq_next i s
  obtain hkeep | ⟨c, hraises, rfl⟩ := (exec_effect ht).keeps_record_or_raises
  · exact .inl ⟨t, ht, hkeep⟩
  · exact .inr ⟨c, hraises, ht⟩

/-! ## Commands do not read the exception record (R93) -/

/-- From `s` and from `s` with the record `r`, command `i` does the same: it leaves the record alone both times and the
states after differ in it only, or it raises one cause both times. -/
def IgnoresRecord (i : Instr) (s : State) (r : ErrRecord) : Prop :=
  (∃ t, exec i s = .next t ∧ t.errRecord = s.errRecord ∧ exec i (s.withRecord r) = .next (t.withRecord r)) ∨
  ∃ c, exec i s = .next (s.capture c (encode i)) ∧
    exec i (s.withRecord r) = .next ((s.withRecord r).capture c (encode i))

/-- Only STATUS shows the record to GETR (41_control.md R57). -/
theorem selected?_withRecord {sel : BitVec 4} (h : sel ≠ 7) (s : State) (r : ErrRecord) :
    (s.withRecord r).selected? sel = s.selected? sel := by
  rcases Nat.lt_or_ge 7 sel.toNat with hgt | hle
  · rw [selected?_of_gt _ _ hgt, selected?_of_gt _ _ hgt]
  · have hlt : sel.toNat < 7 := lt_of_le_of_ne hle fun h7 => h (BitVec.eq_of_toNat_eq h7)
    rw [selected?_of_le _ hle, selected?_of_le _ hle]
    generalize sel.toNat = n at hlt
    interval_cases n <;> rfl

theorem envTemp_withRecord (s : State) (r : ErrRecord) : (s.withRecord r).envTemp = s.envTemp := rfl

theorem storeSample_errRecord (s : State) (t : TempResult) (h : HumResult) (p : PresResult) :
    (s.storeSample t h p).errRecord = s.errRecord := rfl

theorem storeSample_withRecord (s : State) (t : TempResult) (h : HumResult) (p : PresResult) (r : ErrRecord) :
    (s.withRecord r).storeSample t h p = (s.storeSample t h p).withRecord r := rfl

namespace IgnoresRecord

variable {s : State} {r : ErrRecord}

theorem getr (rd : Reg) {sel : BitVec 4} (h : sel ≠ 7) : IgnoresRecord (.getr rd sel) s r := by
  have hselected := selected?_withRecord h s r
  cases hv : s.selected? sel with
  | some v => exact .inl ⟨_, exec_getr_of_some hv rd, rfl, exec_getr_of_some (hselected.trans hv) rd⟩
  | none => exact .inr ⟨_, exec_getr_of_none hv rd, exec_getr_of_none (hselected.trans hv) rd⟩

theorem wcal (k : BitVec 5) (rs : Reg) : IgnoresRecord (.wcal k rs) s r := by
  cases hk : Coef.ofIndex? k.toNat with
  | none => exact .inr ⟨_, exec_wcal_of_none hk rs s, exec_wcal_of_none hk rs _⟩
  | some c =>
    cases hcal : s.status.cal with
    | false => exact .inl ⟨_, exec_wcal_unsealed hk hcal rs, rfl, exec_wcal_unsealed (s := s.withRecord r) hk hcal rs⟩
    | true => exact .inr ⟨_, exec_wcal_sealed hk hcal rs, exec_wcal_sealed (s := s.withRecord r) hk hcal rs⟩

theorem unpkh45 (rs : Reg) : IgnoresRecord (.unpkh45 rs) s r := by
  cases hcal : s.status.cal with
  | false => exact .inl ⟨_, exec_unpkh45_unsealed hcal rs, rfl, exec_unpkh45_unsealed (s := s.withRecord r) hcal rs⟩
  | true => exact .inr ⟨_, exec_unpkh45_sealed hcal rs, exec_unpkh45_sealed (s := s.withRecord r) hcal rs⟩

/-- A compensation command raises NOCAL both times, so it is left to the sealed case. -/
theorem of_sealed {i : Instr} (hi : Raises .nocal i) (hsealed : s.status.cal = true → IgnoresRecord i s r) :
    IgnoresRecord i s r := by
  cases hcal : s.status.cal with
  | false => exact .inr ⟨_, exec_nocal hi hcal, exec_nocal hi hcal⟩
  | true => exact hsealed hcal

/-- A command that reads TFINE raises NOTFINE both times, so it is left to the case of a valid TFINE. -/
theorem of_valid {i : Instr} (hi : Raises .notfine i) (hcal : s.status.cal = true)
    (hvalid : s.status.tfv = true → IgnoresRecord i s r) : IgnoresRecord i s r := by
  cases htfv : s.status.tfv with
  | false => exact .inr ⟨_, exec_notfine hi hcal htfv, exec_notfine hi hcal htfv⟩
  | true => exact hvalid htfv

theorem compt (rd rs : Reg) : IgnoresRecord (.compt rd rs) s r :=
  of_sealed (.inl ⟨rd, rs, .inl rfl⟩) fun hcal =>
    .inl ⟨_, exec_compt_sealed rd rs s hcal, rfl, exec_compt_sealed rd rs _ hcal⟩

theorem comph (rd rs : Reg) : IgnoresRecord (.comph rd rs) s r :=
  of_sealed (.inl ⟨rd, rs, .inr (.inl rfl)⟩) fun hcal =>
    of_valid ⟨rd, rs, .inl rfl⟩ hcal fun htfv =>
      .inl ⟨_, exec_comph_ready rd rs s hcal htfv, rfl, exec_comph_ready rd rs _ hcal htfv⟩

theorem compp (rd rs : Reg) : IgnoresRecord (.compp rd rs) s r :=
  of_sealed (.inl ⟨rd, rs, .inr (.inr rfl)⟩) fun hcal =>
    of_valid ⟨rd, rs, .inr rfl⟩ hcal fun htfv =>
      .inl ⟨_, exec_compp_ready rd rs s hcal htfv, rfl, exec_compp_ready rd rs _ hcal htfv⟩

theorem envsample : IgnoresRecord .envsample s r := by
  refine of_sealed (.inr rfl) fun hcal => .inl ⟨_, exec_envsample_sealed s hcal, storeSample_errRecord .., ?_⟩
  have hrun := exec_envsample_sealed (s.withRecord r) hcal
  rwa [envTemp_withRecord, storeSample_withRecord] at hrun

end IgnoresRecord

/-- Settles O49: a command that can raise by its conditions, none of which reads the record; any other is one write. -/
theorem exceptionRecordDoesNotAffectCommands : Obligations.ExceptionRecordDoesNotAffectCommands := by
  intro i s r hstatus
  cases i with
  | getr rd sel => exact IgnoresRecord.getr rd fun hsel => hstatus rd (by rw [hsel])
  | wcal k rs => exact IgnoresRecord.wcal k rs
  | unpkh45 rs => exact IgnoresRecord.unpkh45 rs
  | compt rd rs => exact IgnoresRecord.compt rd rs
  | comph rd rs => exact IgnoresRecord.comph rd rs
  | compp rd rs => exact IgnoresRecord.compp rd rs
  | envsample => exact IgnoresRecord.envsample
  | _ => exact .inl ⟨_, rfl, rfl, rfl⟩

/-! ## What clears a recorded exception (R92, R94) -/

/-- `t` holds a recorded exception, with the cause and the information value that `s` has. -/
def KeepsCapture (s t : State) : Prop :=
  t.status.err = true ∧ t.status.ecode = s.status.ecode ∧ t.einfo = s.einfo

/-- The accesses that clear the record: a reset and the return of R94. -/
def ClearsRecord (e : HostEvent) : Prop :=
  e = .resetSignal ∨ ∃ v : Word, (e = .write 0x008#9 4 v ∧ v.getLsbD 16 = true) ∨
    (e = .write 0x004#9 4 v ∧ v.getLsbD 0 = true)

section
variable {s t : State} (herr : s.status.err = true)
include herr

theorem KeepsCapture.of_errRecord (h : t.errRecord = s.errRecord) : KeepsCapture s t :=
  ⟨(congrArg ErrRecord.err h).trans herr, congrArg ErrRecord.ecode h, congrArg ErrRecord.einfo h⟩

/-- A further exception changes EOVF only. -/
theorem KeepsCapture.capture (c : Cause) (w : Word) : KeepsCapture s (s.capture c w) := by
  rw [capture_further _ _ _ herr]
  exact ⟨herr, rfl, rfl⟩

theorem executeWord_keepsCapture {w : Word} (h : executeWord w s = .next t) : KeepsCapture s t := by
  obtain ⟨i, -, he⟩ | ⟨-, -, he⟩ := executeWord_cases w s <;> rw [he] at h
  · obtain hkeep | ⟨c, -, rfl⟩ := (exec_effect h).keeps_record_or_raises
    · exact .of_errRecord herr hkeep
    · exact .capture herr c _
  · cases h; exact .capture herr .illegalCmd w

theorem memRead_keepsCapture (a : WindowAddr) (n : Nat) : KeepsCapture s (memRead a n s).2 := by
  unfold memRead
  split
  · exact .of_errRecord herr rfl
  · exact .capture herr .hostAccess _

/-- A write to a register's address keeps a recorded exception, or is the return or a reset. -/
theorem memWrite_addr_keepsCapture {r : WindowReg} {v : Word} (h : memWrite r.addr 4 v s = .next t) :
    KeepsCapture s t ∨ ClearsRecord (.write r.addr 4 v) := by
  cases r with
  | status =>
    by_cases hv : v.getLsbD 16 = true
    · exact .inr (.inr ⟨v, .inl ⟨rfl, hv⟩⟩)
    · rw [memWrite_status, if_neg hv] at h; cases h; exact .inl (.of_errRecord herr rfl)
  | ctrl =>
    by_cases hv : v.getLsbD 0 = true
    · exact .inr (.inr ⟨v, .inr ⟨rfl, hv⟩⟩)
    · rw [memWrite_ctrl, if_neg hv] at h; cases h; exact .inl (.of_errRecord herr rfl)
  | cmd => exact .inl (executeWord_keepsCapture herr h)
  | cal c =>
    cases hcal : s.status.cal with
    | false => rw [memWrite_cal_unsealed c v hcal] at h; cases h; exact .inl (.of_errRecord herr rfl)
    | true => rw [memWrite_cal_sealed c v hcal] at h; cases h; exact .inl (.capture herr .calLocked _)
  | x r => rw [memWrite_x] at h; cases h; exact .inl (.of_errRecord herr rfl)
  | raw k => rw [memWrite_raw] at h; cases h; exact .inl (.of_errRecord herr rfl)
  | id | einfo | tfine | rdT100 | rdRh10 | rdPa | rdTpint | rdTpext | rdLux =>
    rw [memWrite_readOnly rfl] at h; cases h; exact .inl (.capture herr .hostAccess _)

theorem serve_keepsCapture {e : HostEvent} (h : serve e s = .next t) : KeepsCapture s t ∨ ClearsRecord e := by
  cases e with
  | read a n => cases h; exact .inl (memRead_keepsCapture herr a n)
  | write a n v =>
    change memWrite a n v s = .next t at h
    cases hr : accessReg? a n with
    | none => rw [memWrite_refused hr] at h; cases h; exact .inl (.capture herr .hostAccess _)
    | some r =>
      obtain ⟨rfl, hr⟩ := accessReg?_some a n r hr
      obtain rfl := addr_of_windowReg? hr
      exact memWrite_addr_keepsCapture herr h
  | resetSignal => exact .inr (.inl rfl)

end

/-- Settles O50: the STATUS write by its bit 16, and every access that is no reset and not that write keeps what is
recorded. -/
theorem statusWriteIsTheReturn : Obligations.StatusWriteIsTheReturn := by
  refine ⟨fun s v rest => memWrite_status v { s with pending := rest }, fun s t h herr => ?_⟩
  obtain ⟨-, rfl⟩ | ⟨e, rest, hp, he⟩ := step_cases s t h
  · exact .inl ⟨herr, rfl, rfl⟩
  · obtain hkeep | rfl | ⟨v, ⟨rfl, hv⟩ | ⟨rfl, hv⟩⟩ := serve_keepsCapture (s := { s with pending := rest }) herr he
    · exact .inl hkeep
    · exact .inr ⟨rest, .inl hp⟩
    · exact .inr ⟨rest, .inr ⟨v, .inl ⟨hp, hv⟩⟩⟩
    · exact .inr ⟨rest, .inr ⟨v, .inr ⟨hp, hv⟩⟩⟩

end Sys2Proof.Machine
end

section
/-! PROOFS. Reset (70_reset_and_hazards.md R103, R104): the state after it, register by register, and the two accesses
that cause it. -/

namespace Sys2Proof.Machine

/-! ## The registers after a reset (R104) -/

@[simp] theorem reg_resetBlock (s : State) (r : Reg) : s.resetBlock.reg r = 0 :=
  Vector.getElem_replicate _

@[simp] theorem rawByte_resetBlock (s : State) (k : BitVec 3) : s.resetBlock.rawByte k = 0 :=
  Vector.getElem_replicate _

/-- A coefficient with no bit set reads 0, whether H4 and H5 are read signed or not. -/
@[simp] theorem value_trimZero (h45Signed : Bool) (c : Coef) : Trim.zero.value h45Signed c = 0 := by
  cases c with
  | h4 | h5 => cases h45Signed <;> rfl
  | _ => rfl

@[simp] theorem toWord_statusZero : Status.zero.toWord = 0 := rfl

/-! ## The two accesses that reset the block (R103) -/

theorem step_resetSignal (s : State) (rest : List HostEvent) :
    step { s with pending := .resetSignal :: rest } = .next { s with pending := rest }.resetBlock := rfl

theorem step_ctrlReset (s : State) (rest : List HostEvent) {v : Word} (hv : v.getLsbD 0 = true) :
    step { s with pending := .write WindowReg.ctrl.addr 4 v :: rest } =
      .next { s with pending := rest }.resetBlock := by
  rw [step_write, memWrite_ctrl, if_pos hv]

/-! ## The statements -/

/-- Settles O10: the invariant's clauses at the reset values. -/
theorem invariantHoldsAtReset : Obligations.InvariantHoldsAtReset := stateInv_reset

/-- Settles O13: the block's reset sets every register from any state, `State.reset` is one such reset's result, and both
accesses end in one. -/
theorem resetSetsEveryRegister : Obligations.ResetSetsEveryRegister := by
  unfold Obligations.ResetSetsEveryRegister
  intro isReset
  have hblock (s : State) : isReset s.resetBlock :=
    ⟨reg_resetBlock s, rawByte_resetBlock s, value_trimZero, rfl, rfl, rfl, rfl, rfl, rfl, rfl, toWord_statusZero, rfl,
      rfl, rfl⟩
  refine ⟨hblock State.reset, fun s rest => ⟨?_, fun v hv => ?_⟩⟩
  · exact ⟨_, step_resetSignal s rest, hblock _⟩
  · exact ⟨_, step_ctrlReset s rest hv, hblock _⟩

end Sys2Proof.Machine
end
